-- ==== Sys2Proof/Word.lean ====
section
/-! DEFINITION. The words of the EM73866 (spec/00_scope.md R3, R7, R8): fixed widths, bit 0 the least
significant bit. -/

namespace Sys2Proof

/-- The unit of data: Acc, HR, LR, SP, a port, one location of data RAM (R8). -/
abbrev Nibble := BitVec 4

/-- The unit of program memory (R8). -/
abbrev Byte := BitVec 8

/-- A byte address of program ROM; PC is one (R24, R71). -/
abbrev RomAddr := BitVec 13

/-- A full address of data memory: the bank, then the address in the bank (R74). -/
abbrev DataAddr := BitVec 9

/-- TA, TB and DP (R37, R38). -/
abbrev Word12 := BitVec 12

end Sys2Proof
end

