-- ==== Sys2Proof/Syntax.lean ====
section
/-! DEFINITION. The instruction set as syntax: one constructor per row of spec/opcode_table.json, in the
table's order. Operand widths are those of the encodings (spec/30_encoding.md R101, R102). -/

namespace Sys2Proof

/-- The 107 instructions in 108 rows (R104); SLBR has one row per prefix byte (R109). The operand `x`
of LDHL and EXHL is its six encoded bits x[7:2] (R102). -/
inductive Instr where
  -- data transfer (spec/40_data_transfer.md)
  | lda (x : Byte)
  | ldam
  | ldax
  | ldaxi
  | ldh (k : Nibble)
  | ldhl (x : BitVec 6)
  | ldia (k : Nibble)
  | ldl (k : Nibble)
  | sta (x : Byte)
  | stam
  | stamd
  | stami
  | std (k : Nibble) (y : Nibble)
  | stdmi (k : Nibble)
  | tha
  | tla
  -- rotate (spec/41_rotate_arithmetic.md)
  | rlca
  | rrca
  -- arithmetic (spec/41_rotate_arithmetic.md)
  | adcam
  | add (k : Nibble) (y : Nibble)
  | adda (k : Nibble)
  | addam
  | addh (k : Nibble)
  | addl (k : Nibble)
  | addm (k : Nibble)
  | deca
  | decl
  | decm
  | inca
  | incl
  | incm
  | suba (k : Nibble)
  | sbcam
  | subm (k : Nibble)
  -- logical (spec/42_logical.md)
  | anda (k : Nibble)
  | andam
  | andm (k : Nibble)
  | ora (k : Nibble)
  | oram
  | orm (k : Nibble)
  | xoram
  -- exchange (spec/43_exchange.md)
  | exa (x : Byte)
  | exah
  | exal
  | exam
  | exhl (x : BitVec 6)
  -- branch (spec/44_branch.md)
  | sbr (a : BitVec 6)
  | lbr (a : BitVec 12)
  | slbrHigh (a : BitVec 12)
  | slbrLow (a : BitVec 12)
  -- compare (spec/45_compare.md)
  | cmp (k : Nibble) (y : Nibble)
  | cmpa (x : Byte)
  | cmpam
  | cmph (k : Nibble)
  | cmpia (k : Nibble)
  | cmpl (k : Nibble)
  -- bit manipulation (spec/46_bit_manipulation.md)
  | clm (b : BitVec 2)
  | clp (p : Nibble) (b : BitVec 2)
  | clpl
  | clr (y : Nibble) (b : BitVec 2)
  | sem (b : BitVec 2)
  | sep (p : Nibble) (b : BitVec 2)
  | sepl
  | set (y : Nibble) (b : BitVec 2)
  | tf (y : Nibble) (b : BitVec 2)
  | tfa (b : BitVec 2)
  | tfm (b : BitVec 2)
  | tfp (p : Nibble) (b : BitVec 2)
  | tfpl
  | tt (y : Nibble) (b : BitVec 2)
  | ttp (p : Nibble) (b : BitVec 2)
  -- subroutine (spec/47_subroutine.md)
  | lcall (a : BitVec 11)
  | scall (n : Nibble)
  | ret
  -- input and output (spec/48_input_output.md)
  | ina (p : Nibble)
  | inm (p : Nibble)
  | out (k : Nibble) (p : Nibble)
  | outa (p : BitVec 5)
  | outm (p : BitVec 5)
  -- flags, interrupt control, CPU control (spec/49_control_special.md)
  | tfcfc
  | ttcfs
  | tzs
  | cil (r : BitVec 6)
  | dicil (r : BitVec 6)
  | eicil (r : BitVec 6)
  | exae
  | rti
  | nop
  -- timers, data pointer, stack pointer (spec/49_control_special.md)
  | ldatal
  | ldatam
  | ldatah
  | ldatbl
  | ldatbm
  | ldatbh
  | ldadpl
  | ldadpm
  | ldadph
  | ldasp
  | statal
  | statam
  | statah
  | statbl
  | statbm
  | statbh
  | stadpl
  | stadpm
  | stadph
  | stasp
  deriving DecidableEq, Repr

end Sys2Proof
end

