-- ==== Sys2Proof/WellFormed.lean ====
section
/-! DEFINITION. Which instructions have a spelling of their own. The twenty group-14 encodings overlap LDA x
and STA x, and the wider mask wins (spec/30_encoding.md R106): so `lda` and `sta` with one of those ten
addresses are no well-formed instructions, the group-14 constructor is. -/

namespace Sys2Proof

/-- The second bytes that name a special register: F4h to F6h, F8h to FAh, FCh to FFh
(spec/10_state.md R39, spec/30_encoding.md R106). -/
def namesSpecial (x : Byte) : Bool :=
  x == 0xF4#8 || x == 0xF5#8 || x == 0xF6#8 || x == 0xF8#8 || x == 0xF9#8 || x == 0xFA#8 ||
  x == 0xFC#8 || x == 0xFD#8 || x == 0xFE#8 || x == 0xFF#8

/-- Well-formed instructions: every constructor with every operand, but for LDA x and STA x at an
address whose encoding is a group-14 instruction's. -/
def Instr.wf : Instr → Bool
  | .lda x => !namesSpecial x
  | .sta x => !namesSpecial x
  | _ => true

end Sys2Proof
end

