-- ==== Sys2Proof/Decode.lean ====
section
/-! DEFINITION. The decoder, written from the opcode maps of spec/30_encoding.md (R100 to R109), the
encoder, and the reading of an opcode-table word. -/

namespace Sys2Proof

/-- Why three bytes are no instruction: the unassigned patterns of R107, each by its own name. -/
inductive DecodeError where
  /-- First byte 54h, 77h or 7Ah (U1). -/
  | unassignedFirstByte
  /-- 55h or 57h whose next byte is not Cxh (U6). -/
  | prefixWithoutBranch
  /-- 63h with the second byte 00xx xxxx (U4). -/
  | unassignedLatchCode
  /-- 4Ch or 4Eh with an address that is no multiple of 4 (U5). -/
  | pairAddressNotMultipleOf4
  /-- 6Eh with the sub-opcode 0000, 0010, 1000 or 1010 (U2). -/
  | unassignedImmediateCode
  /-- 6Fh with a second byte outside the four port forms (U3). -/
  | unassignedPortCode
  /-- Fewer bytes than the first byte asks for. -/
  | truncated
  deriving DecidableEq, Repr

/-- Bits 7 to 4 of a byte. -/
def hi (b : Byte) : Nibble := b.extractLsb' 4 4

/-- Bits 3 to 0 of a byte. -/
def lo (b : Byte) : Nibble := b.extractLsb' 0 4

/-- Bits 7 to 6 of a byte. -/
def hi2 (b : Byte) : BitVec 2 := b.extractLsb' 6 2

/-- Bits 5 to 4 of a byte: the bit number of formats BY and BP (R102). -/
def mid2 (b : Byte) : BitVec 2 := b.extractLsb' 4 2

/-- Bits 1 to 0 of a byte. -/
def lo2 (b : Byte) : BitVec 2 := b.extractLsb' 0 2

/-- Formats X6: LDHL and EXHL take an address whose two low bits are 00 (R101, R107). -/
def decodePair (mk : BitVec 6 → Instr) (b1 : Byte) : Except DecodeError Instr :=
  if lo2 b1 = 0#2 then .ok (mk (b1.extractLsb' 2 6)) else .error .pairAddressNotMultipleOf4

/-- SLBR: the prefix must be followed by Cxh (R109). -/
def decodeLongBranch (mk : BitVec 12 → Instr) (b1 b2 : Byte) : Except DecodeError Instr :=
  if hi b1 = 0xC#4 then .ok (mk (lo b1 ++ b2)) else .error .prefixWithoutBranch

/-- First bytes 40h to 4Fh (R103). -/
def decode4 (b0 b1 : Byte) : Except DecodeError Instr :=
  match lo b0 with
  | 0x8#4 => .ok (.std (hi b1) (lo b1))
  | 0x9#4 => .ok (.add (hi b1) (lo b1))
  | 0xA#4 => .ok (.out (hi b1) (lo b1))
  | 0xB#4 => .ok (.cmp (hi b1) (lo b1))
  | 0xC#4 => decodePair .exhl b1
  | 0xD#4 => .ok .rti
  | 0xE#4 => decodePair .ldhl b1
  | 0xF#4 => .ok .ret
  | _ => .ok (.lcall (b0.extractLsb' 0 3 ++ b1))

/-- First bytes 50h to 5Fh (R103). -/
def decode5 (b0 b1 b2 : Byte) : Except DecodeError Instr :=
  match lo b0 with
  | 0x0#4 => .ok .rlca
  | 0x1#4 => .ok .rrca
  | 0x2#4 => .ok .ttcfs
  | 0x3#4 => .ok .tfcfc
  | 0x4#4 => .error .unassignedFirstByte
  | 0x5#4 => decodeLongBranch .slbrHigh b1 b2
  | 0x6#4 => .ok .nop
  | 0x7#4 => decodeLongBranch .slbrLow b1 b2
  | 0x8#4 => .ok .exam
  | 0x9#4 => .ok .stam
  | 0xA#4 => .ok .ldam
  | 0xB#4 => .ok .tzs
  | 0xC#4 => .ok .deca
  | 0xD#4 => .ok .decm
  | 0xE#4 => .ok .inca
  | _ => .ok .incm

/-- 6Ah: LDA x, or the group-14 load that has these bytes (R106). -/
def decodeLda (b1 : Byte) : Except DecodeError Instr :=
  match b1 with
  | 0xF4#8 => .ok .ldatal
  | 0xF5#8 => .ok .ldatam
  | 0xF6#8 => .ok .ldatah
  | 0xF8#8 => .ok .ldatbl
  | 0xF9#8 => .ok .ldatbm
  | 0xFA#8 => .ok .ldatbh
  | 0xFC#8 => .ok .ldadpl
  | 0xFD#8 => .ok .ldadpm
  | 0xFE#8 => .ok .ldadph
  | 0xFF#8 => .ok .ldasp
  | x => .ok (.lda x)

/-- 69h: STA x, or the group-14 store that has these bytes (R106). -/
def decodeSta (b1 : Byte) : Except DecodeError Instr :=
  match b1 with
  | 0xF4#8 => .ok .statal
  | 0xF5#8 => .ok .statam
  | 0xF6#8 => .ok .statah
  | 0xF8#8 => .ok .statbl
  | 0xF9#8 => .ok .statbm
  | 0xFA#8 => .ok .statbh
  | 0xFC#8 => .ok .stadpl
  | 0xFD#8 => .ok .stadpm
  | 0xFE#8 => .ok .stadph
  | 0xFF#8 => .ok .stasp
  | x => .ok (.sta x)

/-- 63h (R103). -/
def decodeLatch (b1 : Byte) : Except DecodeError Instr :=
  match hi2 b1 with
  | 1#2 => .ok (.eicil (b1.extractLsb' 0 6))
  | 2#2 => .ok (.dicil (b1.extractLsb' 0 6))
  | 3#2 => .ok (.cil (b1.extractLsb' 0 6))
  | _ => .error .unassignedLatchCode

/-- 6Ch (R103). -/
def decodeZeroPageBit (b1 : Byte) : Except DecodeError Instr :=
  match hi2 b1 with
  | 0#2 => .ok (.tf (lo b1) (mid2 b1))
  | 1#2 => .ok (.set (lo b1) (mid2 b1))
  | 2#2 => .ok (.tt (lo b1) (mid2 b1))
  | _ => .ok (.clr (lo b1) (mid2 b1))

/-- 6Dh (R103). -/
def decodePortBit (b1 : Byte) : Except DecodeError Instr :=
  match hi2 b1 with
  | 0#2 => .ok (.tfp (lo b1) (mid2 b1))
  | 1#2 => .ok (.sep (lo b1) (mid2 b1))
  | 2#2 => .ok (.ttp (lo b1) (mid2 b1))
  | _ => .ok (.clp (lo b1) (mid2 b1))

/-- 6Eh (R105). -/
def decodeImmediate (b1 : Byte) : Except DecodeError Instr :=
  match hi b1 with
  | 0x1#4 => .ok (.addl (lo b1))
  | 0x3#4 => .ok (.cmpl (lo b1))
  | 0x4#4 => .ok (.ora (lo b1))
  | 0x5#4 => .ok (.adda (lo b1))
  | 0x6#4 => .ok (.anda (lo b1))
  | 0x7#4 => .ok (.suba (lo b1))
  | 0x9#4 => .ok (.addh (lo b1))
  | 0xB#4 => .ok (.cmph (lo b1))
  | 0xC#4 => .ok (.orm (lo b1))
  | 0xD#4 => .ok (.addm (lo b1))
  | 0xE#4 => .ok (.andm (lo b1))
  | 0xF#4 => .ok (.subm (lo b1))
  | _ => .error .unassignedImmediateCode

/-- 6Fh (R105). -/
def decodePort (b1 : Byte) : Except DecodeError Instr :=
  match hi b1 with
  | 0x0#4 => .ok (.outa (b1.extractLsb' 0 5))
  | 0x1#4 => .ok (.outa (b1.extractLsb' 0 5))
  | 0x4#4 => .ok (.ina (lo b1))
  | 0x8#4 => .ok (.outm (b1.extractLsb' 0 5))
  | 0x9#4 => .ok (.outm (b1.extractLsb' 0 5))
  | 0xC#4 => .ok (.inm (lo b1))
  | _ => .error .unassignedPortCode

/-- First bytes 60h to 6Fh (R103). -/
def decode6 (b0 b1 : Byte) : Except DecodeError Instr :=
  match lo b0 with
  | 0x0#4 => .ok .clpl
  | 0x1#4 => .ok .tfpl
  | 0x2#4 => .ok .sepl
  | 0x3#4 => decodeLatch b1
  | 0x4#4 => .ok .exal
  | 0x5#4 => .ok .ldax
  | 0x6#4 => .ok .exah
  | 0x7#4 => .ok .ldaxi
  | 0x8#4 => .ok (.exa b1)
  | 0x9#4 => decodeSta b1
  | 0xA#4 => decodeLda b1
  | 0xB#4 => .ok (.cmpa b1)
  | 0xC#4 => decodeZeroPageBit b1
  | 0xD#4 => decodePortBit b1
  | 0xE#4 => decodeImmediate b1
  | _ => decodePort b1

/-- First bytes 70h to 7Fh (R103). -/
def decode7 (b0 : Byte) : Except DecodeError Instr :=
  match lo b0 with
  | 0x0#4 => .ok .adcam
  | 0x1#4 => .ok .addam
  | 0x2#4 => .ok .sbcam
  | 0x3#4 => .ok .cmpam
  | 0x4#4 => .ok .tla
  | 0x5#4 => .ok .exae
  | 0x6#4 => .ok .tha
  | 0x7#4 => .error .unassignedFirstByte
  | 0x8#4 => .ok .oram
  | 0x9#4 => .ok .xoram
  | 0xA#4 => .error .unassignedFirstByte
  | 0xB#4 => .ok .andam
  | 0xC#4 => .ok .decl
  | 0xD#4 => .ok .stamd
  | 0xE#4 => .ok .incl
  | _ => .ok .stami

/-- First bytes F0h to FFh: format B2 (R101). -/
def decodeF (b0 : Byte) : Instr :=
  match b0.extractLsb' 2 2 with
  | 0#2 => .clm (lo2 b0)
  | 1#2 => .sem (lo2 b0)
  | 2#2 => .tfa (lo2 b0)
  | _ => .tfm (lo2 b0)

/-- The instruction that three bytes begin with, the first at the lowest address (R84, R103). Total;
an unassigned pattern is rejected by name. -/
def decode (b0 b1 b2 : Byte) : Except DecodeError Instr :=
  match hi b0 with
  | 0x4#4 => decode4 b0 b1
  | 0x5#4 => decode5 b0 b1 b2
  | 0x6#4 => decode6 b0 b1
  | 0x7#4 => decode7 b0
  | 0x8#4 => .ok (.ldl (lo b0))
  | 0x9#4 => .ok (.ldh (lo b0))
  | 0xA#4 => .ok (.stdmi (lo b0))
  | 0xB#4 => .ok (.cmpia (lo b0))
  | 0xC#4 => .ok (.lbr (lo b0 ++ b1))
  | 0xD#4 => .ok (.ldia (lo b0))
  | 0xE#4 => .ok (.scall (lo b0))
  | 0xF#4 => .ok (decodeF b0)
  | _ => .ok (.sbr (b0.extractLsb' 0 6))

/-- The length in bytes (R100). -/
def Instr.length : Instr → Nat
  | .ldam | .ldax | .ldaxi | .ldh _ | .ldia _ | .ldl _ => 1
  | .stam | .stamd | .stami | .stdmi _ | .tha | .tla => 1
  | .rlca | .rrca | .adcam | .addam | .deca | .decl => 1
  | .decm | .inca | .incl | .incm | .sbcam | .andam => 1
  | .oram | .xoram | .exah | .exal | .exam | .sbr _ => 1
  | .cmpam | .cmpia _ | .clm _ | .clpl | .sem _ | .sepl => 1
  | .tfa _ | .tfm _ | .tfpl | .scall _ | .ret | .tfcfc => 1
  | .ttcfs | .tzs | .exae | .rti | .nop => 1
  | .lda _ | .ldhl _ | .sta _ | .std _ _ | .add _ _ | .adda _ => 2
  | .addh _ | .addl _ | .addm _ | .suba _ | .subm _ | .anda _ => 2
  | .andm _ | .ora _ | .orm _ | .exa _ | .exhl _ | .lbr _ => 2
  | .cmp _ _ | .cmpa _ | .cmph _ | .cmpl _ | .clp _ _ | .clr _ _ => 2
  | .sep _ _ | .set _ _ | .tf _ _ | .tfp _ _ | .tt _ _ | .ttp _ _ => 2
  | .lcall _ | .ina _ | .inm _ | .out _ _ | .outa _ | .outm _ => 2
  | .cil _ | .dicil _ | .eicil _ | .ldatal | .ldatam | .ldatah => 2
  | .ldatbl | .ldatbm | .ldatbh | .ldadpl | .ldadpm | .ldadph => 2
  | .ldasp | .statal | .statam | .statah | .statbl | .statbm => 2
  | .statbh | .stadpl | .stadpm | .stadph | .stasp => 2
  | .slbrHigh _ | .slbrLow _ => 3

/-- The length the first byte asks for (R100). -/
def lengthOf (b0 : Byte) : Nat :=
  match hi b0, lo b0 with
  | 0x4#4, 0xD#4 => 1
  | 0x4#4, 0xF#4 => 1
  | 0x4#4, _ => 2
  | 0x5#4, 0x5#4 => 3
  | 0x5#4, 0x7#4 => 3
  | 0x6#4, 0x3#4 => 2
  | 0x6#4, 0x8#4 => 2
  | 0x6#4, 0x9#4 => 2
  | 0x6#4, 0xA#4 => 2
  | 0x6#4, 0xB#4 => 2
  | 0x6#4, 0xC#4 => 2
  | 0x6#4, 0xD#4 => 2
  | 0x6#4, 0xE#4 => 2
  | 0x6#4, 0xF#4 => 2
  | 0xC#4, _ => 2
  | _, _ => 1

/-- Decode the instruction a list of bytes begins with; the rest of the list comes back with it. -/
def decodeBytes (bs : List Byte) : Except DecodeError (Instr × List Byte) :=
  match bs with
  | [] => .error .truncated
  | b0 :: _ =>
    if bs.length < lengthOf b0 then .error .truncated
    else
      match decode b0 (bs.getD 1 0) (bs.getD 2 0) with
      | .ok i => .ok (i, bs.drop (lengthOf b0))
      | .error e => .error e

/-- Two nibbles make a byte, the first one high. -/
def byteOf (h l : Nibble) : Byte := h ++ l

/-- The bytes of an instruction, the first at the lowest address (R84, R101). -/
def Instr.encode : Instr → List Byte
  | .lda x => [0x6A#8, x]
  | .ldam => [0x5A#8]
  | .ldax => [0x65#8]
  | .ldaxi => [0x67#8]
  | .ldh k => [byteOf 0x9#4 k]
  | .ldhl x => [0x4E#8, (x ++ 0#2 : Byte)]
  | .ldia k => [byteOf 0xD#4 k]
  | .ldl k => [byteOf 0x8#4 k]
  | .sta x => [0x69#8, x]
  | .stam => [0x59#8]
  | .stamd => [0x7D#8]
  | .stami => [0x7F#8]
  | .std k y => [0x48#8, byteOf k y]
  | .stdmi k => [byteOf 0xA#4 k]
  | .tha => [0x76#8]
  | .tla => [0x74#8]
  | .rlca => [0x50#8]
  | .rrca => [0x51#8]
  | .adcam => [0x70#8]
  | .add k y => [0x49#8, byteOf k y]
  | .adda k => [0x6E#8, byteOf 0x5#4 k]
  | .addam => [0x71#8]
  | .addh k => [0x6E#8, byteOf 0x9#4 k]
  | .addl k => [0x6E#8, byteOf 0x1#4 k]
  | .addm k => [0x6E#8, byteOf 0xD#4 k]
  | .deca => [0x5C#8]
  | .decl => [0x7C#8]
  | .decm => [0x5D#8]
  | .inca => [0x5E#8]
  | .incl => [0x7E#8]
  | .incm => [0x5F#8]
  | .suba k => [0x6E#8, byteOf 0x7#4 k]
  | .sbcam => [0x72#8]
  | .subm k => [0x6E#8, byteOf 0xF#4 k]
  | .anda k => [0x6E#8, byteOf 0x6#4 k]
  | .andam => [0x7B#8]
  | .andm k => [0x6E#8, byteOf 0xE#4 k]
  | .ora k => [0x6E#8, byteOf 0x4#4 k]
  | .oram => [0x78#8]
  | .orm k => [0x6E#8, byteOf 0xC#4 k]
  | .xoram => [0x79#8]
  | .exa x => [0x68#8, x]
  | .exah => [0x66#8]
  | .exal => [0x64#8]
  | .exam => [0x58#8]
  | .exhl x => [0x4C#8, (x ++ 0#2 : Byte)]
  | .sbr a => [0#2 ++ a]
  | .lbr a => [byteOf 0xC#4 (a.extractLsb' 8 4), a.extractLsb' 0 8]
  | .slbrHigh a => [0x55#8, byteOf 0xC#4 (a.extractLsb' 8 4), a.extractLsb' 0 8]
  | .slbrLow a => [0x57#8, byteOf 0xC#4 (a.extractLsb' 8 4), a.extractLsb' 0 8]
  | .cmp k y => [0x4B#8, byteOf k y]
  | .cmpa x => [0x6B#8, x]
  | .cmpam => [0x73#8]
  | .cmph k => [0x6E#8, byteOf 0xB#4 k]
  | .cmpia k => [byteOf 0xB#4 k]
  | .cmpl k => [0x6E#8, byteOf 0x3#4 k]
  | .clm b => [(0x3C#6 ++ b : Byte)]
  | .clp p b => [0x6D#8, (3#2 ++ b ++ p : Byte)]
  | .clpl => [0x60#8]
  | .clr y b => [0x6C#8, (3#2 ++ b ++ y : Byte)]
  | .sem b => [(0x3D#6 ++ b : Byte)]
  | .sep p b => [0x6D#8, (1#2 ++ b ++ p : Byte)]
  | .sepl => [0x62#8]
  | .set y b => [0x6C#8, (1#2 ++ b ++ y : Byte)]
  | .tf y b => [0x6C#8, (0#2 ++ b ++ y : Byte)]
  | .tfa b => [(0x3E#6 ++ b : Byte)]
  | .tfm b => [(0x3F#6 ++ b : Byte)]
  | .tfp p b => [0x6D#8, (0#2 ++ b ++ p : Byte)]
  | .tfpl => [0x61#8]
  | .tt y b => [0x6C#8, (2#2 ++ b ++ y : Byte)]
  | .ttp p b => [0x6D#8, (2#2 ++ b ++ p : Byte)]
  | .lcall a => [(0b01000#5 ++ a.extractLsb' 8 3 : Byte), a.extractLsb' 0 8]
  | .scall n => [byteOf 0xE#4 n]
  | .ret => [0x4F#8]
  | .ina p => [0x6F#8, byteOf 0x4#4 p]
  | .inm p => [0x6F#8, byteOf 0xC#4 p]
  | .out k p => [0x4A#8, byteOf k p]
  | .outa p => [0x6F#8, (0#3 ++ p : Byte)]
  | .outm p => [0x6F#8, (4#3 ++ p : Byte)]
  | .tfcfc => [0x53#8]
  | .ttcfs => [0x52#8]
  | .tzs => [0x5B#8]
  | .cil r => [0x63#8, (3#2 ++ r : Byte)]
  | .dicil r => [0x63#8, (2#2 ++ r : Byte)]
  | .eicil r => [0x63#8, (1#2 ++ r : Byte)]
  | .exae => [0x75#8]
  | .rti => [0x4D#8]
  | .nop => [0x56#8]
  | .ldatal => [0x6A#8, 0xF4#8]
  | .ldatam => [0x6A#8, 0xF5#8]
  | .ldatah => [0x6A#8, 0xF6#8]
  | .ldatbl => [0x6A#8, 0xF8#8]
  | .ldatbm => [0x6A#8, 0xF9#8]
  | .ldatbh => [0x6A#8, 0xFA#8]
  | .ldadpl => [0x6A#8, 0xFC#8]
  | .ldadpm => [0x6A#8, 0xFD#8]
  | .ldadph => [0x6A#8, 0xFE#8]
  | .ldasp => [0x6A#8, 0xFF#8]
  | .statal => [0x69#8, 0xF4#8]
  | .statam => [0x69#8, 0xF5#8]
  | .statah => [0x69#8, 0xF6#8]
  | .statbl => [0x69#8, 0xF8#8]
  | .statbm => [0x69#8, 0xF9#8]
  | .statbh => [0x69#8, 0xFA#8]
  | .stadpl => [0x69#8, 0xFC#8]
  | .stadpm => [0x69#8, 0xFD#8]
  | .stadph => [0x69#8, 0xFE#8]
  | .stasp => [0x69#8, 0xFF#8]

/-- The three bytes, in address order, of an instruction that spec/opcode_table.json writes as the
number `w` of `nbits` bits: its first byte is the most significant one (R112); bytes past the
number are 0. -/
def tableBytes (nbits w : Nat) : Byte × Byte × Byte :=
  if nbits ≤ 8 then (BitVec.ofNat 8 w, 0#8, 0#8)
  else if nbits ≤ 16 then (BitVec.ofNat 8 (w / 256), BitVec.ofNat 8 w, 0#8)
  else (BitVec.ofNat 8 (w / 65536), BitVec.ofNat 8 (w / 256), BitVec.ofNat 8 w)

/-- The instruction the decoder reads from an opcode-table word. -/
def decodeTableWord (nbits w : Nat) : Option Instr :=
  match decode (tableBytes nbits w).1 (tableBytes nbits w).2.1 (tableBytes nbits w).2.2 with
  | .ok i => some i
  | .error _ => none

end Sys2Proof
end

