-- ==== Sys2Proof/Config.lean ====
section
/-! DEFINITION. What one EM73866 chip fixes (the mask options of spec/00_scope.md R5), the parameters the
spec leaves open (R6, spec/92_eei_decisions.md), and the free values. -/

namespace Sys2Proof.Config

/-- FREE VALUE. The value an undefined read yields: the `n`-th draw, `w` bits wide. It has no body, so
nothing proves which value it is, and a claim holds for every value (notes/assumptions/9.md). -/
opaque freeBits : (w : Nat) → Nat → BitVec w

/-- FREE VALUE. The nibble that data RAM shows at an address that may hold the stack, while the parameter
`STACK_RAM_MAP` is unset: any value, a function of what the levels hold and of the address
(spec/93_implementation_defined.md U21; notes/assumptions/13.md). -/
opaque stackShows : List (BitVec 16) → DataAddr → Nibble

/-- FREE VALUE. What each level holds after a store at an address that may hold the stack, while the parameter
`STACK_RAM_MAP` is unset: the store is unvouched (spec/93_implementation_defined.md U21;
notes/assumptions/13.md). -/
opaque stackStores : List (BitVec 16) → DataAddr → Nibble → Nat → BitVec 16

/-- A pin transition (parameter `INT_EDGE`, spec/92_eei_decisions.md D22). -/
inductive Edge where
  | rising
  | falling
  deriving DecidableEq, Repr

/-- Which bit of P21 is CWC (parameter `P21_CWC_BIT`, spec/10_state.md R59): one of bits 3 to 1. -/
inductive CwcBit where
  | bit1
  | bit2
  | bit3
  deriving DecidableEq, Repr

/-- The edge on which a wake-up pin releases where the source gives no edge: P4, P5, P7.0 and P8 (R375;
notes/assumptions/27.md). -/
inductive WakeEdge where
  | rising
  | falling
  | either
  deriving DecidableEq, Repr

/-- Wake-up of the four pins of P0 or of P2, `P0_P2_OPTION[pin]`: disabled, or enabled with one edge, positive
or negative (R5). -/
structure InputWake where
  pin0 : Option Edge
  pin1 : Option Edge
  pin2 : Option Edge
  pin3 : Option Edge
  deriving DecidableEq, Repr

/-- `P4_0_OPTION`: a port pin without wake-up, a port pin that is a wake-up pin, or the inverse sound output,
which has no wake-up (R5, R364). -/
inductive P40Option where
  | port
  | wakeUp (edge : WakeEdge)
  | sound
  deriving DecidableEq, Repr

/-- One nibble for each of the ports P0 to P8: the levels of their pins. -/
structure Pins where
  p0 : Nibble
  p1 : Nibble
  p2 : Nibble
  p3 : Nibble
  p4 : Nibble
  p5 : Nibble
  p6 : Nibble
  p7 : Nibble
  p8 : Nibble
  deriving DecidableEq, Repr

/-- The mask options and open parameters that change what the model does. The options left out
(oscillator types, drive strengths, pull-ups) change nothing a program or an agent step shows
(spec/00_scope.md R5). A wake-up option `none` is "wakeup disable". -/
structure Options where
  /-- `WDT_ENABLE` (R5). -/
  wdtEnable : Bool
  /-- `FREQ_DOUBLE` (R5): which column of the rate tables is meant. -/
  freqDouble : Bool
  /-- `P1_INITIAL`: true is "initial high" (R5, R53). -/
  p1InitialHigh : Bool
  /-- `P3_01_OPTION` is "segment pin": P3.0 and P3.1 are SEG30 and SEG31, no port bits (R5). -/
  p3Segments : Bool
  /-- `P0_P2_OPTION` of P0 (R5, R375). -/
  p0Wake : InputWake
  /-- `P0_P2_OPTION` of P2 (R5, R375). -/
  p2Wake : InputWake
  /-- `P4_0_OPTION` (R5, R364, R375). -/
  p40 : P40Option
  /-- `P4_1_OPTION` (R5, R375). -/
  p41Wake : Option WakeEdge
  /-- `P4_23_OPTION`, one for P4.2 and P4.3 (R5, R375). -/
  p423Wake : Option WakeEdge
  /-- `P5_OPTION`, one for the four pins (R5, R375). -/
  p5Wake : Option WakeEdge
  /-- `P7_0_OPTION` (R5, R375). -/
  p70Wake : Option WakeEdge
  /-- `P8_OPTION` of P8.0 (R5, R375). -/
  p80Wake : Option WakeEdge
  /-- `P8_OPTION` of P8.1 (R5, R375). -/
  p81Wake : Option WakeEdge
  /-- `P8_OPTION` of P8.2 (R5, R375). -/
  p82Wake : Option WakeEdge
  /-- `INT_EDGE` of INT0, pin P8.2 (R322). -/
  int0Edge : Edge
  /-- `INT_EDGE` of INT1, pin P8.0 (R322). -/
  int1Edge : Edge
  /-- `PULSE_WIDTH_LEVEL`: the level of the input at which a counter in pulse width measurement
  mode counts (R354, R365). -/
  pulseHigh : Bool
  /-- `TIMER_AFTER_OVERFLOW`: what TA or TB holds after the count from FFFh (R355). -/
  timerAfterOverflow : Word12
  /-- `P21_CWC_BIT` (R59). -/
  cwcBit : CwcBit
  /-- `P22_SOM_BITS`: the one bit of P22 that is no bit of SOM (R60). -/
  somUnused : BitVec 2
  /-- `STACK_RAM_MAP` (R44): `none` is "unset"; in a list, entry `4 * n + q` is the RAM address where nibble
  `q` of stack level `n` lies, and the empty list keeps the stack apart from RAM. -/
  stackMap : Option (List DataAddr)
  /-- `P9_RESET` (R6, R54, R383): what a reset leaves in port 9; `none` is "unspecified", any value. -/
  p9Reset : Option Nibble
  /-- `fc`, the high-frequency clock rate in Hz (R6, R386). -/
  fc : Nat
  /-- `fs`, the low-frequency clock rate in Hz (R6, R386). -/
  fs : Nat
  /-- `BULLET_C_WRITES_CF` (R156, R160). -/
  bulletCWritesCF : Bool
  deriving DecidableEq, Repr

def Pins.all (v : Nibble) : Pins := ⟨v, v, v, v, v, v, v, v, v⟩

/-- The four pins of an input port with one wake-up option. -/
def InputWake.all (e : Option Edge) : InputWake := ⟨e, e, e, e⟩

/-- P4.0 is the inverse sound output (R5, R364). -/
def Options.p4Sound (o : Options) : Bool := o.p40 == .sound

/-- The setting that `State.reset` carries: the spec's defaults where it names one
(spec/92_eei_decisions.md D4, D6, D16, D17, D19, D31; for the clocks R386), and a DESIGN CHOICE elsewhere
(notes/assumptions/6.md). -/
def Options.initial : Options where
  wdtEnable := true
  freqDouble := false
  p1InitialHigh := true
  p3Segments := false
  p0Wake := .all (some .falling)
  p2Wake := .all (some .falling)
  p40 := .wakeUp .falling
  p41Wake := some .falling
  p423Wake := some .falling
  p5Wake := some .falling
  p70Wake := some .falling
  p80Wake := some .falling
  p81Wake := some .falling
  p82Wake := some .falling
  int0Edge := .falling
  int1Edge := .falling
  pulseHigh := true
  timerAfterOverflow := 0x000#12
  cwcBit := .bit3
  somUnused := 3#2
  stackMap := none
  p9Reset := none
  fc := 4000000
  fs := 32768
  bulletCWritesCF := false

end Sys2Proof.Config
end

