-- ==== Sys2Proof/Machine/State.lean ====
section
/-! DEFINITION. The state of the EM73866 as plain data, the reasons a step stops, and the machine right
after reset (spec/10_state.md). -/

namespace Sys2Proof.Machine

open Sys2Proof.Config

/-- One location of data RAM: its address and its nibble. -/
abbrev NibbleCell := Nat × Nibble

/-- The four operation modes (R370). -/
inductive Mode where
  | normal
  | slow
  | idle
  | stop
  deriving DecidableEq, Repr

/-- The ports that have pins (R49). -/
inductive PinPort where
  | p0
  | p1
  | p2
  | p3
  | p4
  | p5
  | p6
  | p7
  | p8
  deriving DecidableEq, Repr

/-- One atomic action of an agent at an instruction boundary (R378). -/
inductive Event where
  /-- The CPU's turn: one instruction or one interrupt acceptance. -/
  | cpu
  /-- The environment puts new levels on the pins of a port. -/
  | pins (port : PinPort) (level : Nibble)
  /-- A request of INT0 or INT1 (R322). -/
  | int0
  | int1
  /-- A rising edge of the internal pulse of timer A or B (R353, R354). -/
  | timerAPulse
  | timerBPulse
  /-- A rising edge of the clock HIPS selects (R361). -/
  | htcClock
  /-- A tick of the time base output P25 selects (R358). -/
  | timeBaseTick
  /-- The low-frequency oscillator becomes stable or unstable (R56). -/
  | oscillator (stable : Bool)
  /-- A wake-up pin releases IDLE or STOP (R375). -/
  | wakePin
  /-- The internal timing signal releases IDLE (R373). -/
  | wakeTimer
  /-- One count of the watch-dog counter's clock (R367). -/
  | wdtClock
  /-- The watch-dog time-up, whenever it comes (spec/92_eei_decisions.md D26). -/
  | wdtTimeUp
  /-- The RESET pin (R380). -/
  | resetPin
  deriving DecidableEq, Repr

/-- One stack level: a return address and the three flags (R40). -/
structure StackEntry where
  cf : Bool
  zf : Bool
  sf : Bool
  pc : RomAddr
  deriving DecidableEq, Repr

/-- The output latches (R51, R54). Bits without a pin keep their reset value 1. -/
structure Latches where
  p1 : Nibble
  p3 : Nibble
  p4 : Nibble
  p5 : Nibble
  p6 : Nibble
  p7 : Nibble
  p8 : Nibble
  p9 : Nibble
  deriving DecidableEq, Repr

/-- The command registers, write-only (R57 to R64). -/
structure Commands where
  p16 : Nibble
  p19 : Nibble
  p21 : Nibble
  p22 : Nibble
  p25 : Nibble
  p27 : Nibble
  p28 : Nibble
  p29 : Nibble
  p31 : Nibble
  deriving DecidableEq, Repr

/-- The high speed timer/counter: preset, running counter, output flip-flop (R55, R360). -/
structure Htc where
  preset : Byte
  count : Byte
  sound : Bool
  deriving DecidableEq, Repr

/-- The model faults (R312): the spec defines no behaviour and the model stops. Safe: no claim about a
later state can be drawn from one. -/
inductive Fault where
  /-- The bytes at PC match no row of the opcode table; raised by the step (R107). Safe. -/
  | unassignedEncoding
  /-- A data access forms a bank-0 address 0F4h to 0FFh other than LDA x or STA x on a listed
  register; raised by the data-memory operations (R78, R79). Safe. -/
  | bank0SpecialArea
  /-- A push or pop at level 13, 14 or 15; raised by calls, returns and interrupt acceptance (R43).
  Safe. -/
  | stackLevelOutOfRange
  /-- An access to a port with an empty row; raised by the port operations (R65). Safe. -/
  | unassignedPort
  /-- A reserved code written to a command register, or IDLE requested outside SLOW mode; raised by
  the output operation (R371, R379). Safe. -/
  | reservedCommand
  deriving DecidableEq, Repr

/-- Refusals. Every instruction has its meaning, so no arm of `exec` uses this; safe. -/
inductive Refusal where
  /-- An instruction without a meaning, by its mnemonic; raised by `exec` alone. -/
  | notModelled (mnemonic : String)
  deriving DecidableEq, Repr

/-- The whole machine. -/
structure State where
  /-- Accumulator (R20). -/
  acc : Nibble
  /-- H register (R21). -/
  hr : Nibble
  /-- L register (R21). -/
  lr : Nibble
  /-- Program counter: the address of the instruction about to run (R24). -/
  pc : RomAddr
  /-- Carry flag (R28). -/
  cf : Bool
  /-- Zero flag (R29). -/
  zf : Bool
  /-- Status flag (R30). -/
  sf : Bool
  /-- Stack pointer (R35). -/
  sp : Nibble
  /-- Data pointer (R37). -/
  dp : Word12
  /-- Counter register of timer/counter A (R38). -/
  ta : Word12
  /-- Counter register of timer/counter B (R38). -/
  tb : Word12
  /-- STACK[0..12] (R40). -/
  stack : Vector StackEntry 13
  /-- Interrupt enable flip-flop (R45). -/
  ei : Bool
  /-- Interrupt mask (R46). -/
  mask : Nibble
  /-- Interrupt latch, bit n is ILn (R47). -/
  il : BitVec 6
  /-- Data RAM: (address, nibble) pairs, addresses strictly rising, none 0 (R68; notes/assumptions/3.md). -/
  ram : List NibbleCell
  /-- Program ROM: (address, byte) pairs, addresses strictly rising, none 0 (R71; notes/assumptions/2.md). -/
  rom : List Host.Cell
  /-- Output latches of ports 1 and 3 to 9 (R51, R54). -/
  latch : Latches
  /-- Command registers of ports 16 to 31 (R57 to R64). -/
  cmd : Commands
  /-- High speed timer/counter (R55, R360). -/
  htc : Htc
  /-- Operation mode; CPUS (P14.0) is its reading (R56, R370). -/
  mode : Mode
  /-- WKS, P14.2 (R56). -/
  wks : Bool
  /-- LFS, P14.1 (R56). -/
  lfs : Bool
  /-- The LCD driver’s power switch (R368). -/
  lcdPower : Bool
  /-- The 4-stage watch-dog counter (R367). -/
  wdtCount : BitVec 4
  /-- MODEL: the levels of the pins of P0 to P8 (R87; notes/assumptions/8.md). -/
  pins : Pins
  /-- MODEL: what acts at the coming boundaries (R378; notes/assumptions/7.md). -/
  schedule : List Event
  /-- MODEL: mask options and open parameters (R5, R6; notes/assumptions/6.md). -/
  opts : Options
  /-- MODEL: how many free values have been drawn (notes/assumptions/9.md). -/
  draws : Nat
  deriving DecidableEq, Repr

/-- What one step answers. -/
abbrev Res := Host.Outcome State Fault Refusal

def State.setAcc (s : State) (v : Nibble) : State := { s with acc := v }
def State.setHr (s : State) (v : Nibble) : State := { s with hr := v }
def State.setLr (s : State) (v : Nibble) : State := { s with lr := v }
def State.setPc (s : State) (v : RomAddr) : State := { s with pc := v }
def State.setCf (s : State) (v : Bool) : State := { s with cf := v }
def State.setZf (s : State) (v : Bool) : State := { s with zf := v }
def State.setSf (s : State) (v : Bool) : State := { s with sf := v }
def State.setSp (s : State) (v : Nibble) : State := { s with sp := v }
def State.setDp (s : State) (v : Word12) : State := { s with dp := v }
def State.setTa (s : State) (v : Word12) : State := { s with ta := v }
def State.setTb (s : State) (v : Word12) : State := { s with tb := v }
def State.setStack (s : State) (v : Vector StackEntry 13) : State := { s with stack := v }
def State.setEi (s : State) (v : Bool) : State := { s with ei := v }
def State.setMask (s : State) (v : Nibble) : State := { s with mask := v }
def State.setIl (s : State) (v : BitVec 6) : State := { s with il := v }
def State.setRam (s : State) (v : List NibbleCell) : State := { s with ram := v }
def State.setRom (s : State) (v : List Host.Cell) : State := { s with rom := v }
def State.setLatch (s : State) (v : Latches) : State := { s with latch := v }
def State.setCmd (s : State) (v : Commands) : State := { s with cmd := v }
def State.setHtc (s : State) (v : Htc) : State := { s with htc := v }
def State.setMode (s : State) (v : Mode) : State := { s with mode := v }
def State.setWks (s : State) (v : Bool) : State := { s with wks := v }
def State.setLfs (s : State) (v : Bool) : State := { s with lfs := v }
def State.setLcdPower (s : State) (v : Bool) : State := { s with lcdPower := v }
def State.setWdtCount (s : State) (v : BitVec 4) : State := { s with wdtCount := v }
def State.setPins (s : State) (v : Pins) : State := { s with pins := v }
def State.setSchedule (s : State) (v : List Event) : State := { s with schedule := v }
def State.setDraws (s : State) (v : Nat) : State := { s with draws := v }

/-- The machine right after reset (R67, R381). What the reset table leaves out holds the value its log
entry names (notes/assumptions/2.md to 9.md); on the HTC preset see notes/assumptions/41.md. -/
def State.reset : State where
  acc := 0#4
  hr := 0#4
  lr := 0#4
  pc := 0#13
  cf := false
  zf := false
  sf := true
  sp := 0#4
  dp := 0#12
  ta := 0#12
  tb := 0#12
  stack := Vector.replicate 13 ⟨false, false, false, 0#13⟩
  ei := false
  mask := 0#4
  il := 0#6
  ram := []
  rom := []
  latch := ⟨0xF#4, 0xF#4, 0xF#4, 0xF#4, 0xF#4, 0xF#4, 0xF#4, 0x0#4⟩
  cmd := ⟨0#4, 0#4, 0#4, 0#4, 0#4, 0#4, 0#4, 0#4, 0#4⟩
  htc := ⟨0#8, 0#8, false⟩
  mode := .normal
  wks := false
  lfs := false
  lcdPower := false
  wdtCount := 0#4
  pins := .all 0xF#4
  schedule := []
  opts := .initial
  draws := 0

end Sys2Proof.Machine
end

