-- ==== Sys2Proof/Machine/Flags.lean ====
section
/-! DEFINITION. The ALU operations and the flag columns `C Z S` of the instruction table
(spec/00_scope.md R10 to R12, spec/10_state.md R28 to R33). -/

namespace Sys2Proof.Machine

/-- A result nibble with the carry `C` of the operation that made it (R12). -/
structure Alu where
  val : Nibble
  carry : Bool
  deriving DecidableEq, Repr

/-- `add4(a, b, cin)`: the sum modulo 16, and whether it reached 16 (R10). -/
def add4 (a b : Nibble) (cin : Bool) : Alu where
  val := BitVec.ofNat 4 (a.toNat + b.toNat + cin.toNat)
  carry := decide (16 ≤ a.toNat + b.toNat + cin.toNat)

/-- `sub4(a, b, bin)`: the difference modulo 16, and `C = 1` for no borrow (R11). -/
def sub4 (a b : Nibble) (bin : Bool) : Alu where
  val := BitVec.ofInt 4 ((a.toNat : Int) - b.toNat - bin.toNat)
  carry := decide (b.toNat + bin.toNat ≤ a.toNat)

/-- Rotate left through the carry: bit 3 goes out, the old CF comes in at bit 0 (R151). -/
def rotateLeft (v : Nibble) (cf : Bool) : Alu where
  val := v.extractLsb' 0 3 ++ BitVec.ofBool cf
  carry := v.getLsbD 3

/-- Rotate right through the carry: bit 0 goes out, the old CF comes in at bit 3 (R152). -/
def rotateRight (v : Nibble) (cf : Bool) : Alu where
  val := BitVec.ofBool cf ++ v.extractLsb' 1 3
  carry := v.getLsbD 0

/-- The letter `Z`: the result nibble is 0 (R12). -/
def isZero (v : Nibble) : Bool := v == 0#4

/-- Columns `- - 1` (R33). -/
def State.flagsSet (s : State) : State := s.setSf true

/-- Columns `- Z 1` (R33). -/
def State.flagsLoad (s : State) (v : Nibble) : State := (s.setZf (isZero v)).setSf true

/-- Columns `- Z C'` (R33). -/
def State.flagsAdd (s : State) (r : Alu) : State := (s.setZf (isZero r.val)).setSf (!r.carry)

/-- Columns `- Z C` (R33). -/
def State.flagsSub (s : State) (r : Alu) : State := (s.setZf (isZero r.val)).setSf r.carry

/-- Columns `C Z C'` (R33). -/
def State.flagsAddCarry (s : State) (r : Alu) : State := (s.setCf r.carry).flagsAdd r

/-- Columns `C Z C` (R33). -/
def State.flagsSubCarry (s : State) (r : Alu) : State := (s.setCf r.carry).flagsSub r

/-- Columns `- Z Z'` (R33). -/
def State.flagsLogic (s : State) (v : Nibble) : State := (s.setZf (isZero v)).setSf (!isZero v)

/-- Columns `C Z Z'` (R33, R210). -/
def State.flagsCompare (s : State) (r : Alu) : State := (s.setCf r.carry).flagsLogic r.val

/-- The C cell printed as a bullet (ADDAM, DECA): CF keeps its value, or takes the carry when the
parameter `BULLET_C_WRITES_CF` says so (R156, R160). -/
def State.bulletCarry (s : State) (r : Alu) : State :=
  if s.opts.bulletCWritesCF then s.setCf r.carry else s

end Sys2Proof.Machine
end

