-- ==== Sys2Proof/Machine/Memory.lean ====
section
/-! DEFINITION. Sparse memory: a list of (address, value) pairs in one canonical form, for data RAM
(nibbles) and for program ROM (bytes). -/

namespace Sys2Proof.Machine

open Sys2Proof.Config

variable {w : Nat}

/-- What an address that is not listed reads as: 0 (notes/assumptions/2.md, 3.md). -/
def Memory.blank (w : Nat) : BitVec w := 0#w

/-- The value at an address. -/
def Memory.read (m : List (Nat × BitVec w)) (a : Nat) : BitVec w :=
  match m with
  | [] => Memory.blank w
  | (k, v) :: rest => if k = a then v else Memory.read rest a

/-- The memory with every entry at an address taken out. -/
def Memory.erase (m : List (Nat × BitVec w)) (a : Nat) : List (Nat × BitVec w) :=
  match m with
  | [] => []
  | (k, v) :: rest => if k = a then Memory.erase rest a else (k, v) :: Memory.erase rest a

/-- The memory with an entry put before the first higher address. -/
def Memory.insert (m : List (Nat × BitVec w)) (a : Nat) (v : BitVec w) : List (Nat × BitVec w) :=
  match m with
  | [] => [(a, v)]
  | (k, x) :: rest => if a < k then (a, v) :: (k, x) :: rest else (k, x) :: Memory.insert rest a v

/-- The memory after a write: the address holds the value, and is not listed when that is what an
unlisted address reads as. -/
def Memory.write (m : List (Nat × BitVec w)) (a : Nat) (v : BitVec w) : List (Nat × BitVec w) :=
  if v = Memory.blank w then Memory.erase m a else Memory.insert (Memory.erase m a) a v

/-- The canonical form: addresses strictly rising, no entry equal to what an unlisted address reads as,
and every address one that `ok` accepts. -/
def Memory.wf (ok : Nat → Bool) (m : List (Nat × BitVec w)) : Bool :=
  match m with
  | [] => true
  | (k, v) :: rest =>
    ok k && v != Memory.blank w && rest.all (fun c => decide (k < c.1)) && Memory.wf ok rest

/-- The addresses of the 500 RAM nibbles: 000h to 0F3h and 100h to 1FFh (R74). -/
def isRamAddr (a : Nat) : Bool := decide (a ≤ 0x0F3) || (decide (0x100 ≤ a) && decide (a ≤ 0x1FF))

/-- The addresses of program ROM: 0000h to 1FFFh (R71). -/
def isRomAddr (a : Nat) : Bool := decide (a ≤ 0x1FFF)

/-- `RomByte(a)` (R71). -/
def State.romByte (s : State) (a : RomAddr) : Byte := Memory.read s.rom a.toNat

/-- ROM bytes placed from outside, one after another, addresses modulo 2^13 (R26, R72). -/
def placeRom (rom : List Host.Cell) (a : RomAddr) : List Byte → List Host.Cell
  | [] => rom
  | b :: rest => placeRom (Memory.write rom a.toNat b) (a + 1) rest

/-- The sixteen bits of a stack level, flags above PC (R40; the order of the three flags is a DESIGN
CHOICE, notes/assumptions/13.md). -/
def StackEntry.toBits (e : StackEntry) : BitVec 16 :=
  BitVec.ofBool e.cf ++ BitVec.ofBool e.zf ++ BitVec.ofBool e.sf ++ e.pc

def StackEntry.ofBits (v : BitVec 16) : StackEntry where
  cf := v.getLsbD 15
  zf := v.getLsbD 14
  sf := v.getLsbD 13
  pc := v.extractLsb' 0 13

/-- Nibble `q` of a level, as RAM shows it (R44). -/
def StackEntry.nibble (e : StackEntry) (q : Fin 4) : Nibble := e.toBits.extractLsb' (4 * q.val) 4

/-- The level with nibble `q` replaced, as a store to RAM changes it (R44). -/
def StackEntry.setNibble (e : StackEntry) (q : Fin 4) (v : Nibble) : StackEntry :=
  .ofBits ((e.toBits &&& ~~~(0xF#16 <<< (4 * q.val))) ||| (v.setWidth 16 <<< (4 * q.val)))

/-- Which nibble of which stack level lies at a RAM address, by `STACK_RAM_MAP` (R44). -/
def State.stackSlot (s : State) (a : DataAddr) : Option (Fin 13 × Fin 4) :=
  match (s.opts.stackMap.getD []).idxOf? a with
  | some i => if h : i < 52 then some (⟨i / 4, by omega⟩, ⟨i % 4, by omega⟩) else none
  | none => none

/-- Bank-0 addresses 0C0h to 0F3h: where data and the stack may meet while `STACK_RAM_MAP` is unset, by the
spec's conservative setting (R44; spec/92_eei_decisions.md D4; notes/assumptions/13.md). -/
def mayHoldStack (a : DataAddr) : Bool := decide (0x0C0 ≤ a.toNat) && decide (a.toNat ≤ 0x0F3)

/-- A RAM address for which the model does not vouch: `STACK_RAM_MAP` is unset and the stack may lie there
(R44; spec/93_implementation_defined.md U21). -/
def State.unvouched (s : State) (a : DataAddr) : Bool := s.opts.stackMap.isNone && mayHoldStack a

/-- The bits of the stack levels. -/
def State.stackBits (s : State) : List (BitVec 16) := s.stack.toList.map StackEntry.toBits

/-- The nibble data RAM shows at an address: a piece of a stack level where `STACK_RAM_MAP` puts one, any
value where the parameter is unset and the stack may lie, a RAM nibble elsewhere (R44, R68; U21). -/
def State.peek (s : State) (a : DataAddr) : Nibble :=
  if s.unvouched a then stackShows s.stackBits a
  else
    match s.stackSlot a with
    | some (l, q) => (s.stack[l.val]).nibble q
    | none => Memory.read s.ram a.toNat

/-- The state after a nibble is stored in data RAM; where the parameter is unset and the stack may lie, any
level may change (R44, R68; U21). -/
def State.poke (s : State) (a : DataAddr) (v : Nibble) : State :=
  if s.unvouched a then
    s.setStack (Vector.ofFn fun l => .ofBits (stackStores s.stackBits a v l.val))
  else
    match s.stackSlot a with
    | some (l, q) => s.setStack (s.stack.set l.val ((s.stack[l.val]).setNibble q v))
    | none => s.setRam (Memory.write s.ram a.toNat v)

end Sys2Proof.Machine
end

