-- ==== Sys2Proof/Machine/Operands.lean ====
section
/-! DEFINITION. How operands become addresses, targets and bits (spec/20_memory.md R73 to R77,
spec/30_encoding.md R102, spec/44_branch.md, spec/47_subroutine.md). -/

namespace Sys2Proof.Machine

/-- The bank bit P9.3 (R54, R74). -/
def State.bank (s : State) : Bool := s.latch.p9.getLsbD 3

/-- `ea_hl = P9.3 : HR : LR` (R75). -/
def State.eaHl (s : State) : DataAddr := BitVec.ofBool s.bank ++ s.hr ++ s.lr

/-- `ea_dir(x) = P9.3 : x` (R76). -/
def State.eaDir (s : State) (x : Byte) : DataAddr := BitVec.ofBool s.bank ++ x

/-- `ea_zp(y) = 0 : 0000 : y`, bank 0 whatever P9.3 holds (R77). -/
def eaZp (y : Nibble) : DataAddr := 0#5 ++ y

/-- The address x of LDHL and EXHL from its six encoded bits (R80). -/
def pairLow (x : BitVec 6) : Byte := x ++ 0#2

/-- The address x + 1 of LDHL and EXHL (R80). -/
def pairHigh (x : BitVec 6) : Byte := x ++ 1#2

/-- Bit `b` of a nibble (R7). -/
def testBit (v : Nibble) (b : BitVec 2) : Bool := v.getLsbD b.toNat

/-- `v | (1 << b)` (R226). -/
def setBit (v : Nibble) (b : BitVec 2) : Nibble := v ||| (1#4 <<< b.toNat)

/-- `v & ~(1 << b)` (R222). -/
def clearBit (v : Nibble) (b : BitVec 2) : Nibble := v &&& ~~~(1#4 <<< b.toNat)

/-- A port number as the 5-bit one of OUTA and OUTM (R48). -/
def portOf (p : Nibble) : BitVec 5 := 0#1 ++ p

/-- The port LR points at: `4 + LR[3:2]` (R23). -/
def State.lrPort (s : State) : BitVec 5 := 4#5 + (s.lr.extractLsb' 2 2).setWidth 5

/-- The bit LR points at: `LR[1:0]` (R23). -/
def State.lrBit (s : State) : BitVec 2 := s.lr.extractLsb' 0 2

/-- `next = (PC + length) mod 2^13` (R25, R26). -/
def State.nextPc (s : State) (len : Nat) : RomAddr := s.pc + BitVec.ofNat 13 len

/-- Target of SBR: `next[12:6] : a` (R200). -/
def State.shortTarget (s : State) (a : BitVec 6) : RomAddr := (s.nextPc 1).extractLsb' 6 7 ++ a

/-- Target of LBR: `next[12] : a` (R201). -/
def State.longTarget (s : State) (a : BitVec 12) : RomAddr := (s.nextPc 2).extractLsb' 12 1 ++ a

/-- Target of LCALL: `00 : a` (R240). -/
def callTarget (a : BitVec 11) : RomAddr := 0#2 ++ a

/-- Target of SCALL: `8n + 6`, and 0086h for n = 0 (R241). -/
def shortCallTarget (n : Nibble) : RomAddr :=
  if n = 0#4 then 0x0086#13 else BitVec.ofNat 13 (8 * n.toNat + 6)

/-- The ROM address DP selects: `1 : DP` (R73). -/
def State.tableAddr (s : State) : RomAddr := 1#1 ++ s.dp

/-- The three nibbles of a 12-bit register (R37, R38). -/
inductive Part where
  | low
  | middle
  | high
  deriving DecidableEq, Repr

def Part.get (p : Part) (v : Word12) : Nibble :=
  match p with
  | .low => v.extractLsb' 0 4
  | .middle => v.extractLsb' 4 4
  | .high => v.extractLsb' 8 4

/-- One nibble of a 12-bit register replaced; the other two keep their value (R282). -/
def Part.put (p : Part) (v : Word12) (n : Nibble) : Word12 :=
  match p with
  | .low => v.extractLsb' 4 8 ++ n
  | .middle => v.extractLsb' 8 4 ++ n ++ v.extractLsb' 0 4
  | .high => n ++ v.extractLsb' 0 8

/-- The special registers LDA x and STA x reach in bank 0 (R39). -/
inductive Special where
  | ta (p : Part)
  | tb (p : Part)
  | dp (p : Part)
  | sp
  deriving DecidableEq, Repr

/-- The register that answers at a bank-0 address F4h to FFh, if the table lists one (R39). -/
def specialAt (a : DataAddr) : Option Special :=
  match a with
  | 0x0F4#9 => some (.ta .low)
  | 0x0F5#9 => some (.ta .middle)
  | 0x0F6#9 => some (.ta .high)
  | 0x0F8#9 => some (.tb .low)
  | 0x0F9#9 => some (.tb .middle)
  | 0x0FA#9 => some (.tb .high)
  | 0x0FC#9 => some (.dp .low)
  | 0x0FD#9 => some (.dp .middle)
  | 0x0FE#9 => some (.dp .high)
  | 0x0FF#9 => some .sp
  | _ => none

def State.getSpecial (s : State) : Special → Nibble
  | .ta p => p.get s.ta
  | .tb p => p.get s.tb
  | .dp p => p.get s.dp
  | .sp => s.sp

def State.putSpecial (s : State) (r : Special) (v : Nibble) : State :=
  match r with
  | .ta p => s.setTa (p.put s.ta v)
  | .tb p => s.setTb (p.put s.tb v)
  | .dp p => s.setDp (p.put s.dp v)
  | .sp => s.setSp v

end Sys2Proof.Machine
end

