-- ==== Sys2Proof/Machine/Rates.lean ====
section
/-! DEFINITION. The fields of the command registers and the tables they select from
(spec/10_state.md R57 to R64). -/

namespace Sys2Proof.Machine

/-- A cell of a rate table: `lxin k` is LXIN/2^k Hz, `rcin k` is RCIN/2^k Hz (an exponent -1 doubles),
`htc` is "Depend on high speed timer/counter". -/
inductive Rate where
  | disabled
  | reserved
  | lxin (k : Int)
  | rcin (k : Int)
  | htc
  deriving DecidableEq, Repr

/-- The same cell in the column "With low-frequency double" when `dbl` says so: every rate doubles
(R61, R63, R64, R356). -/
def Rate.column (dbl : Bool) (r : Rate) : Rate :=
  match dbl, r with
  | true, .lxin k => .lxin (k - 1)
  | true, .rcin k => .rcin (k - 1)
  | _, r => r

/-- A cell of the SLOW column: rates listed "Reserved" there, the others as in NORMAL. -/
def Rate.notInSlow (slow : Bool) (r : Rate) : Rate := if slow then .reserved else r

/-- Bits 3 to 2 of a command nibble: IDME, LDC, TMSA, TMSB, HTMS. -/
def fieldHigh (v : Nibble) : BitVec 2 := v.extractLsb' 2 2

/-- Bits 1 to 0 of a command nibble: SIDR, DUTY, IPSA, IPSB, HIPS. -/
def fieldLow (v : Nibble) : BitVec 2 := v.extractLsb' 0 2

/-- Time base rates, P25 (R61). -/
def timeBaseRate (dbl slow : Bool) (p25 : Nibble) : Rate :=
  Rate.column dbl <|
    match p25 with
    | 0x4#4 => Rate.notInSlow slow (.lxin 3)
    | 0x5#4 => Rate.notInSlow slow (.lxin 4)
    | 0x6#4 => Rate.notInSlow slow (.lxin 5)
    | 0x7#4 => .lxin 14
    | 0xC#4 => Rate.notInSlow slow (.lxin 1)
    | 0xD#4 => .lxin 6
    | 0xE#4 => .lxin 8
    | 0xF#4 => .lxin 10
    | 0x0#4 => .disabled
    | 0x1#4 => .disabled
    | 0x2#4 => .disabled
    | 0x3#4 => .disabled
    | _ => .reserved

/-- Internal pulse rates of timer A, IPSA (R63). -/
def timerARate (dbl slow : Bool) (p28 : Nibble) : Rate :=
  Rate.column dbl <|
    match fieldLow p28 with
    | 0#2 => Rate.notInSlow slow (.lxin 3)
    | 1#2 => .lxin 7
    | 2#2 => .lxin 11
    | _ => .lxin 15

/-- Internal pulse rates of timer B, IPSB (R63). -/
def timerBRate (dbl : Bool) (p29 : Nibble) : Rate :=
  Rate.column dbl <|
    match fieldLow p29 with
    | 0#2 => .htc
    | 1#2 => .lxin 5
    | 2#2 => .lxin 9
    | _ => .lxin 13

/-- Clocks of the HTC, HIPS (R64). -/
def htcRate (dbl slow : Bool) (p31 : Nibble) : Rate :=
  Rate.column dbl <|
    match fieldLow p31 with
    | 0#2 => .lxin 0
    | 1#2 => .lxin 2
    | 2#2 => Rate.notInSlow slow (.rcin 4)
    | _ => Rate.notInSlow slow (.rcin 6)

/-- TMSA, TMSB (R63, R351). -/
inductive TimerMode where
  | stop
  | event
  | timer
  | pulse
  deriving DecidableEq, Repr

def timerMode (v : Nibble) : TimerMode :=
  match fieldHigh v with
  | 0#2 => .stop
  | 1#2 => .event
  | 2#2 => .timer
  | _ => .pulse

/-- HTMS (R64, R361). -/
inductive HtcMode where
  | stop
  | autoLoad
  | melody
  | pulse
  deriving DecidableEq, Repr

def htcMode (p31 : Nibble) : HtcMode :=
  match fieldHigh p31 with
  | 0#2 => .stop
  | 1#2 => .autoLoad
  | 2#2 => .melody
  | _ => .pulse

/-- SWWT, bits 2 to 0 of P16 (R57). -/
def swwt (p16 : Nibble) : BitVec 3 := p16.extractLsb' 0 3

/-- The warm-up after STOP: SWWT selects 2^k/XIN (R57). -/
def stopWarmup (p16 : Nibble) : Option Nat :=
  match swwt p16 with
  | 4#3 => some 9
  | 5#3 => some 10
  | 6#3 => some 18
  | 7#3 => some 19
  | _ => none

/-- SOM, the three bits of P22 other than the unused one (R60, parameter `P22_SOM_BITS`). -/
def som (unused : BitVec 2) (p22 : Nibble) : BitVec 3 :=
  match unused with
  | 0#2 => p22.extractLsb' 1 3
  | 1#2 => p22.extractLsb' 2 2 ++ p22.extractLsb' 0 1
  | 2#2 => p22.extractLsb' 3 1 ++ p22.extractLsb' 0 2
  | _ => p22.extractLsb' 0 3

/-- SOM = 1**: normal to slow (R60). -/
def somSlow (unused : BitVec 2) (p22 : Nibble) : Bool := (som unused p22).getLsbD 2

/-- The wake-up time from SLOW to NORMAL: SOM selects 2^k/LXIN (R60, R372). -/
def slowWarmup (unused : BitVec 2) (p22 : Nibble) : Option Nat :=
  match som unused p22 with
  | 0#3 => some 3
  | 1#3 => some 4
  | 2#3 => some 11
  | 3#3 => some 12
  | _ => none

/-- The internal signal that releases IDLE, SIDR: every 1/2^k seconds, or none (R58). -/
def idleSignal (dbl : Bool) (p19 : Nibble) : Option Nat :=
  match fieldLow p19 with
  | 0#2 => none
  | 1#2 => some (0 + dbl.toNat)
  | 2#2 => some (1 + dbl.toNat)
  | _ => some (6 + dbl.toNat)

/-- Which bit of P21 is CWC (R59). -/
def cwcIndex : Config.CwcBit → Nat
  | .bit1 => 1
  | .bit2 => 2
  | .bit3 => 3

/-- CWC = 0: clear the watch-dog counter (R59). -/
def clearsWdt (b : Config.CwcBit) (p21 : Nibble) : Bool := !p21.getLsbD (cwcIndex b)

/-- What P21 holds after a write: "Clear counter then return to 1", so CWC is 1 (R59). -/
def cwcReturned (b : Config.CwcBit) (p21 : Nibble) : Nibble := p21 ||| (1#4 <<< cwcIndex b)

/-- The detect time in counts, field WDT in bit 0 of P21 (R59, R367). -/
def wdtLimit (p21 : Nibble) : Nat := if p21.getLsbD 0 then 7 else 3

/-- LDC (R62). -/
inductive LcdMode where
  | disabled
  | blanking
  | reserved
  | enabled
  deriving DecidableEq, Repr

def lcdMode (p27 : Nibble) : LcdMode :=
  match fieldHigh p27 with
  | 0#2 => .disabled
  | 1#2 => .blanking
  | 2#2 => .reserved
  | _ => .enabled

/-- The number of common pins the duty uses, DUTY (R62, R368). DESIGN CHOICE (notes/assumptions/38.md): the
DUTY bits of the last write to P27 count whatever LDC it had; R62 ties "change duty" to LDC = 00 and leaves
open whether LDC = 01 or 11 changes it too. -/
def lcdCommons (p27 : Nibble) : Nat :=
  match fieldLow p27 with
  | 0#2 => 4
  | 1#2 => 3
  | 2#2 => 2
  | _ => 1

/-- A unit that is not stopped selects a rate that is reserved in SLOW mode: IPSA = 00, HIPS = 10 or 11, or
P25 = 0100, 0101, 0110, 1100 (R379). -/
def slowReserved (dbl : Bool) (c : Commands) : Bool :=
  (timerMode c.p28 != .stop && timerARate dbl true c.p28 == .reserved) ||
  (htcMode c.p31 != .stop && htcRate dbl true c.p31 == .reserved) ||
  timeBaseRate dbl true c.p25 == .reserved

end Sys2Proof.Machine
end

