-- ==== Sys2Proof/Machine/Ports.lean ====
section
/-! DEFINITION. The port space: `PortIn`, `PortLatch`, `PortOut` (spec/20_memory.md R86 to R88) and what
an output to each port does (spec/48_input_output.md R256). -/

namespace Sys2Proof.Machine

open Sys2Proof.Config

/-- The bits of a port that have a pin (R52); P3.0 and P3.1 have none when they are segment pins (R5). -/
def pinMask (o : Options) : PinPort → Nibble
  | .p0 => 0xF#4
  | .p1 => 0x3#4
  | .p2 => 0xF#4
  | .p3 => if o.p3Segments then 0xC#4 else 0xF#4
  | .p4 => 0xF#4
  | .p5 => 0xF#4
  | .p6 => 0x3#4
  | .p7 => 0x1#4
  | .p8 => 0x7#4

/-- The nibble a port has in a record of nine. -/
def pinsOf (v : Pins) : PinPort → Nibble
  | .p0 => v.p0
  | .p1 => v.p1
  | .p2 => v.p2
  | .p3 => v.p3
  | .p4 => v.p4
  | .p5 => v.p5
  | .p6 => v.p6
  | .p7 => v.p7
  | .p8 => v.p8

/-- The record with one port's nibble replaced. -/
def pinsPut (v : Pins) (p : PinPort) (n : Nibble) : Pins :=
  match p with
  | .p0 => { v with p0 := n }
  | .p1 => { v with p1 := n }
  | .p2 => { v with p2 := n }
  | .p3 => { v with p3 := n }
  | .p4 => { v with p4 := n }
  | .p5 => { v with p5 := n }
  | .p6 => { v with p6 := n }
  | .p7 => { v with p7 := n }
  | .p8 => { v with p8 := n }

/-- `a` where the mask has 1, `b` where it has 0. -/
def merge (mask a b : Nibble) : Nibble := (a &&& mask) ||| (b &&& ~~~mask)

/-- The free value the coming undefined read yields. -/
def State.freeNibble (s : State) : Nibble := freeBits 4 s.draws

/-- The state after a free value may have been used. -/
def State.drawn (s : State) : State := s.setDraws (s.draws + 1)

/-- What a port with pins shows: the levels, and any value in the bits without a pin (R52, R87). -/
def State.pinRead (s : State) (p : PinPort) : Nibble :=
  merge (pinMask s.opts p) (pinsOf s.pins p) s.freeNibble

/-- The status nibble of P14: any value in bit 3, then WKS, LFS, CPUS (R56). -/
def State.statusRead (s : State) : Nibble :=
  BitVec.ofBool (s.freeNibble.getLsbD 3) ++ BitVec.ofBool s.wks ++ BitVec.ofBool s.lfs ++
    BitVec.ofBool (s.mode == .slow)

/-- A nibble of the HTC count: the count when the counter is stopped, any value while it counts (R55,
R366). -/
def State.htcRead (s : State) (n : Nibble) : Nibble :=
  if htcMode s.cmd.p31 = .stop then n else s.freeNibble

/-- `PortIn(p)` (R87). Ports 16 to 31 cannot be named by an input instruction (R48). -/
def portIn (p : BitVec 5) (s : State) : Except Fault Nibble :=
  match p with
  | 0#5 => .ok (s.pinRead .p0)
  | 1#5 => .ok (s.pinRead .p1)
  | 2#5 => .ok (s.pinRead .p2)
  | 3#5 => .ok (s.pinRead .p3)
  | 4#5 => .ok (s.pinRead .p4)
  | 5#5 => .ok (s.pinRead .p5)
  | 6#5 => .ok (s.pinRead .p6)
  | 7#5 => .ok (s.pinRead .p7)
  | 8#5 => .ok (s.pinRead .p8)
  | 9#5 => .ok s.latch.p9
  | 10#5 => .ok (s.htcRead (s.htc.count.extractLsb' 0 4))
  | 11#5 => .ok (s.htcRead (s.htc.count.extractLsb' 4 4))
  | 14#5 => .ok s.statusRead
  | _ => .error .unassignedPort

/-- `PortLatch(p)` (R88). Ports 0, 2 and 14 have none; what stands here for them is dropped by
`portOut` (R50, R56). -/
def portLatch (p : BitVec 5) (s : State) : Nibble :=
  match p with
  | 1#5 => s.latch.p1
  | 3#5 => s.latch.p3
  | 4#5 => s.latch.p4
  | 5#5 => s.latch.p5
  | 6#5 => s.latch.p6
  | 7#5 => s.latch.p7
  | 8#5 => s.latch.p8
  | 9#5 => s.latch.p9
  | 10#5 => s.htc.preset.extractLsb' 0 4
  | 11#5 => s.htc.preset.extractLsb' 4 4
  | _ => 0#4

/-- P16: bit 2 enters STOP, where the LCD is disabled; the codes 001 to 011 are reserved (R57, R374,
R379). -/
def writeP16 (v : Nibble) (s : State) : Except Fault State :=
  let t := s.setCmd { s.cmd with p16 := v }
  if v.getLsbD 2 then .ok ((t.setMode .stop).setLcdPower false)
  else if swwt v = 0#3 then .ok t
  else .error .reservedCommand

/-- P19: IDME = 01 enters IDLE from SLOW mode; IDME = 10 and 11 are reserved (R58, R371, R373, R379). -/
def writeP19 (v : Nibble) (s : State) : Except Fault State :=
  let t := s.setCmd { s.cmd with p19 := v }
  match fieldHigh v with
  | 0#2 => .ok t
  | 1#2 => if s.mode = .slow then .ok (t.setMode .idle) else .error .reservedCommand
  | _ => .error .reservedCommand

/-- P21: detect time, and CWC = 0 clears the watch-dog counter, then returns to 1; no effect without the
watch-dog (R59, R367). -/
def writeP21 (v : Nibble) (s : State) : Except Fault State :=
  if s.opts.wdtEnable then
    let t := s.setCmd { s.cmd with p21 := cwcReturned s.opts.cwcBit v }
    .ok (if clearsWdt s.opts.cwcBit v then t.setWdtCount 0#4 else t)
  else .ok s

/-- P22: SOM = 1** goes from NORMAL to SLOW, 0** from SLOW to NORMAL (R60, R372); entering SLOW while a unit
that is not stopped has a rate that SLOW mode reserves is a reserved command (R379). -/
def writeP22 (v : Nibble) (s : State) : Except Fault State :=
  let t := s.setCmd { s.cmd with p22 := v }
  match somSlow s.opts.somUnused v, s.mode with
  | true, .normal =>
    if slowReserved s.opts.freqDouble s.cmd then .error .reservedCommand else .ok (t.setMode .slow)
  | false, .slow => .ok (t.setMode .normal)
  | _, _ => .ok t

/-- P25: time base rate (R61, R358, R379). -/
def writeP25 (v : Nibble) (s : State) : Except Fault State :=
  if timeBaseRate s.opts.freqDouble (s.mode == .slow) v = .reserved then .error .reservedCommand
  else .ok (s.setCmd { s.cmd with p25 := v })

/-- P27: LCD control; enabling turns the power switch on (R62, R368, R379). -/
def writeP27 (v : Nibble) (s : State) : Except Fault State :=
  let t := s.setCmd { s.cmd with p27 := v }
  match lcdMode v with
  | .reserved => .error .reservedCommand
  | .enabled => .ok (t.setLcdPower true)
  | .disabled => .ok t
  | .blanking => .ok t

/-- P28: timer A; a rate that SLOW mode reserves faults there whatever TMSA is (R63, R351, R379). DESIGN CHOICE
(notes/assumptions/39.md): a write while the timer runs restarts nothing, TA keeps its count; R351 says that
this is not stated. -/
def writeP28 (v : Nibble) (s : State) : Except Fault State :=
  if timerARate s.opts.freqDouble (s.mode == .slow) v = .reserved then .error .reservedCommand
  else .ok (s.setCmd { s.cmd with p28 := v })

/-- P29: timer B (R63, R351). DESIGN CHOICE (notes/assumptions/39.md): a write while the timer runs restarts
nothing, TB keeps its count; R351 says that this is not stated. -/
def writeP29 (v : Nibble) (s : State) : Except Fault State :=
  .ok (s.setCmd { s.cmd with p29 := v })

/-- P31: the HTC; starting it loads the preset into the counter; a clock that SLOW mode reserves faults there
whatever HTMS is (R64, R362, R379). -/
def writeP31 (v : Nibble) (s : State) : Except Fault State :=
  if htcRate s.opts.freqDouble (s.mode == .slow) v = .reserved then .error .reservedCommand
  else
    let t := s.setCmd { s.cmd with p31 := v }
    .ok (if htcMode s.cmd.p31 = .stop ∧ htcMode v ≠ .stop then
      t.setHtc { s.htc with count := s.htc.preset } else t)

/-- `PortOut(p, v)` (R88, R256). Ports 0 and 2 have nothing that could receive the write; it is dropped
(spec/93_implementation_defined.md U12). -/
def portOut (p : BitVec 5) (v : Nibble) (s : State) : Except Fault State :=
  match p with
  | 0#5 => .ok s
  | 1#5 => .ok (s.setLatch { s.latch with p1 := merge (pinMask s.opts .p1) v s.latch.p1 })
  | 2#5 => .ok s
  | 3#5 => .ok (s.setLatch { s.latch with p3 := merge (pinMask s.opts .p3) v s.latch.p3 })
  | 4#5 => .ok (s.setLatch { s.latch with p4 := merge (pinMask s.opts .p4) v s.latch.p4 })
  | 5#5 => .ok (s.setLatch { s.latch with p5 := merge (pinMask s.opts .p5) v s.latch.p5 })
  | 6#5 => .ok (s.setLatch { s.latch with p6 := merge (pinMask s.opts .p6) v s.latch.p6 })
  | 7#5 => .ok (s.setLatch { s.latch with p7 := merge (pinMask s.opts .p7) v s.latch.p7 })
  | 8#5 => .ok (s.setLatch { s.latch with p8 := merge (pinMask s.opts .p8) v s.latch.p8 })
  | 9#5 => .ok (s.setLatch { s.latch with p9 := v })
  | 10#5 => .ok (s.setHtc { s.htc with preset := s.htc.preset.extractLsb' 4 4 ++ v })
  | 11#5 => .ok (s.setHtc { s.htc with preset := v ++ s.htc.preset.extractLsb' 0 4 })
  | 14#5 => .ok (s.setWks false)
  | 16#5 => writeP16 v s
  | 19#5 => writeP19 v s
  | 21#5 => writeP21 v s
  | 22#5 => writeP22 v s
  | 25#5 => writeP25 v s
  | 27#5 => writeP27 v s
  | 28#5 => writeP28 v s
  | 29#5 => writeP29 v s
  | 31#5 => writeP31 v s
  | _ => .error .unassignedPort

end Sys2Proof.Machine
end

