-- ==== Sys2Proof/Machine/Ops.lean ====
section
/-! DEFINITION. The operations the meanings share: data-memory access, the stack, taking an interrupt and
returning from one, and the shapes that several instructions have. -/

namespace Sys2Proof.Machine

open Sys2Proof.Config

/-- Go on with a value, or stop with its fault. -/
def onOk {α : Type} (r : Except Fault α) (k : α → Res) : Res :=
  match r with
  | .ok a => k a
  | .error f => .fault f

/-- `PC <- next` (R25). -/
def State.advance (s : State) (len : Nat) : State := s.setPc (s.nextPc len)

/-! ### Data memory -/

/-- Bank-0 addresses 0F4h to 0FFh, where there is no RAM (R74). -/
def isSpecialArea (a : DataAddr) : Bool := decide (0x0F4 ≤ a.toNat) && decide (a.toNat ≤ 0x0FF)

/-- `MemRead` for every instruction but LDA x (R78). -/
def readData (a : DataAddr) (s : State) : Except Fault Nibble :=
  if isSpecialArea a then .error .bank0SpecialArea else .ok (s.peek a)

/-- `MemWrite` for every instruction but STA x (R79). -/
def writeData (a : DataAddr) (v : Nibble) (s : State) : Except Fault State :=
  if isSpecialArea a then .error .bank0SpecialArea else .ok (s.poke a v)

/-- `MemRead` for LDA x: the special registers answer in bank 0 (R78). -/
def readDirect (x : Byte) (s : State) : Except Fault Nibble :=
  if isSpecialArea (s.eaDir x) then
    match specialAt (s.eaDir x) with
    | some r => .ok (s.getSpecial r)
    | none => .error .bank0SpecialArea
  else .ok (s.peek (s.eaDir x))

/-- `MemWrite` for STA x: the special registers answer in bank 0 (R79). -/
def writeDirect (x : Byte) (v : Nibble) (s : State) : Except Fault State :=
  if isSpecialArea (s.eaDir x) then
    match specialAt (s.eaDir x) with
    | some r => .ok (s.putSpecial r v)
    | none => .error .bank0SpecialArea
  else .ok (s.poke (s.eaDir x) v)

/-! ### The stack -/

/-- `push(pc, f)`: the entry goes to the level SP names, then SP is decreased (R41, R43). -/
def pushEntry (e : StackEntry) (s : State) : Except Fault State :=
  if h : s.sp.toNat < 13 then .ok ((s.setStack (s.stack.set s.sp.toNat e h)).setSp (s.sp - 1#4))
  else .error .stackLevelOutOfRange

/-- `pop()`: SP is increased, then the level it names is read (R42, R43). -/
def popEntry (s : State) : Except Fault (StackEntry × State) :=
  if h : (s.sp + 1#4).toNat < 13 then
    .ok (s.stack[(s.sp + 1#4).toNat]'h, s.setSp (s.sp + 1#4))
  else .error .stackLevelOutOfRange

/-- The entry a call pushes: the return address, and free values for the flags (R41; D5). -/
def State.callEntry (s : State) (ret : RomAddr) : StackEntry where
  cf := (freeBits 3 s.draws).getLsbD 2
  zf := (freeBits 3 s.draws).getLsbD 1
  sf := (freeBits 3 s.draws).getLsbD 0
  pc := ret

/-- LCALL and SCALL: push the address of the next instruction and go to the target; no flag changes
(R240, R241). -/
def callTo (target : RomAddr) (len : Nat) (s : State) : Res :=
  onOk (pushEntry (s.callEntry (s.nextPc len)) s.drawn) fun t => .next (t.setPc target)

/-! ### Interrupts -/

/-- The six sources, in the order of their priority (R320). -/
inductive Source where
  | int0
  | htci
  | trga
  | trgb
  | tbi
  | int1
  deriving DecidableEq, Repr

/-- The bit of IL that latches a source (R320). -/
def Source.latchBit : Source → Nat
  | .int0 => 5
  | .htci => 4
  | .trga => 3
  | .trgb => 2
  | .tbi => 1
  | .int1 => 0

/-- The entry address (R320). -/
def Source.vector : Source → RomAddr
  | .int0 => 0x0002#13
  | .htci => 0x0004#13
  | .trga => 0x0006#13
  | .trgb => 0x0008#13
  | .tbi => 0x000A#13
  | .int1 => 0x000C#13

/-- The MASK side of the enable condition; INT0 has none (R321). -/
def Source.unmasked (n : Source) (mask : Nibble) : Bool :=
  match n with
  | .int0 => true
  | .htci => mask.getLsbD 3
  | .trga => mask.getLsbD 2
  | .trgb => mask.getLsbD 1
  | .tbi => mask.getLsbD 0
  | .int1 => mask.getLsbD 0

/-- Set one latch of IL (R322). -/
def State.request (s : State) (n : Source) : State := s.setIl (s.il ||| (1#6 <<< n.latchBit))

/-- A latched source whose enable condition holds (R321). -/
def State.acceptable (s : State) (n : Source) : Bool :=
  s.ei && s.il.getLsbD n.latchBit && n.unmasked s.mask

/-- The source accepted at a boundary: the enabled one of the highest priority (R324, R325). -/
def State.pendingSource (s : State) : Option Source :=
  if s.acceptable .int0 then some .int0
  else if s.acceptable .htci then some .htci
  else if s.acceptable .trga then some .trga
  else if s.acceptable .trgb then some .trgb
  else if s.acceptable .tbi then some .tbi
  else if s.acceptable .int1 then some .int1
  else none

/-- Interrupt entry: push PC and the flags, PC to the entry address, SF <- 1, EI <- 0, clear the latch
(R330). -/
def takeInterrupt (n : Source) (s : State) : Res :=
  onOk (pushEntry ⟨s.cf, s.zf, s.sf, s.pc⟩ s) fun t =>
    .next ((((t.setPc n.vector).setSf true).setEi false).setIl
      (s.il &&& ~~~(1#6 <<< n.latchBit)))

/-- Return from an interrupt: PC and the three flags come from the stack, EI <- 1 (R278, R333). -/
def returnFromInterrupt (s : State) : Res :=
  onOk (popEntry s) fun r =>
    .next (((((r.2.setPc r.1.pc).setCf r.1.cf).setZf r.1.zf).setSf r.1.sf).setEi true)

/-! ### Shapes of instructions -/

/-- LDA x and the group-14 loads (R131, R283). -/
def loadDirect (x : Byte) (s : State) : Res :=
  onOk (readDirect x s) fun v => .next (((s.setAcc v).flagsLoad v).advance 2)

/-- STA x and the group-14 stores (R139, R283). -/
def storeDirect (x : Byte) (s : State) : Res :=
  onOk (writeDirect x s.acc s) fun t => .next (t.flagsSet.advance 2)

/-- A value loaded into Acc with the flags of a load, columns `- Z 1`. -/
def loadAcc (len : Nat) (v : Nibble) (s : State) : State := ((s.setAcc v).flagsLoad v).advance len

/-- Read RAM[HL] and go on with it. -/
def withHl (s : State) (k : Nibble → Res) : Res := onOk (readData s.eaHl s) k

/-- Replace one nibble by what `f` makes of it, then set flags by `g`: the read-modify-write form (R89). -/
def updateData (a : DataAddr) (len : Nat) (f : Nibble → Alu) (g : State → Alu → State)
    (s : State) : Res :=
  onOk (readData a s) fun m =>
    onOk (writeData a (f m).val s) fun t => .next ((g t (f m)).advance len)

/-- Store at RAM[HL], then change LR, with the flags of the change of LR (R141, R142, R144). -/
def storeThenStep (v : Nibble) (r : Alu) (g : State → Alu → State) (s : State) : Res :=
  onOk (writeData s.eaHl v s) fun t => .next ((g (t.setLr r.val) r).advance 1)

/-- A logical result in place of an ALU result; it has no carry (R180). -/
def logic (v : Nibble) : Alu := ⟨v, false⟩

/-- Columns `- Z Z'` on a logical result (R180). -/
def logicFlags (s : State) (r : Alu) : State := s.flagsLogic r.val

/-- Columns `- - 1` whatever the result (R220). -/
def setFlags (s : State) (_ : Alu) : State := s.flagsSet

/-- A bit set or clear on a port: the latch is read, one bit changed, and written back (R88, R221). -/
def updatePort (p : BitVec 5) (len : Nat) (f : Nibble → Nibble) (s : State) : Res :=
  onOk (portOut p (f (portLatch p s)) s) fun t => .next (t.flagsSet.advance len)

/-- A test of a port bit: the pin is read (R86, R221). -/
def testPort (p : BitVec 5) (len : Nat) (f : Nibble → Bool) (s : State) : Res :=
  onOk (portIn p s) fun v => .next ((s.drawn.setSf (f v)).advance len)

/-- An output instruction (R250). -/
def outputTo (p : BitVec 5) (v : Nibble) (s : State) : Res :=
  onOk (portOut p v s) fun t => .next (t.flagsSet.advance 2)

/-- A branch: taken when SF = 1; SF becomes 1 either way (R200 to R203). -/
def branchTo (target : RomAddr) (len : Nat) (s : State) : Res :=
  .next ((s.setPc (if s.sf then target else s.nextPc len)).flagsSet)

end Sys2Proof.Machine
end

