-- ==== Sys2Proof/Machine/Devices.lean ====
section
/-! DEFINITION. The agents beside the CPU (spec/60_exceptions.md R350 to R378) and the reset event
(spec/70_reset_and_hazards.md R380 to R382). An action that its rule does not allow in the present
state does nothing. -/

namespace Sys2Proof.Machine

open Sys2Proof.Config

/-- NORMAL or SLOW: the CPU and the counters run (R370, R378). -/
def Mode.running : Mode → Bool
  | .normal => true
  | .slow => true
  | .idle => false
  | .stop => false

/-! ### Reset -/

/-- The reset value of the P1 latch (R53). -/
def p1Initial (o : Options) : Nibble := if o.p1InitialHigh then 0xF#4 else 0xC#4

/-- RAM after a reset: nothing says what it holds, so every nibble is a free value (R68, R381). -/
def freeRam (d : Nat) : List NibbleCell :=
  ((List.range 512).filter isRamAddr).foldl
    (fun m a => Memory.write m a (freeBits 4 (d + 32 + a))) []

/-- The reset event: the values of R381; everything R381 leaves unspecified becomes a free value,
port 9 when `P9_RESET` gives none (R383). ROM, pins, options and the schedule are not the chip's to reset.
DEDUCED (notes/assumptions/41.md): the HTC preset is 00h as R67 and R381 say, not any value as U17 says. -/
def resetChip (s : State) : State where
  acc := freeBits 4 s.draws
  hr := freeBits 4 (s.draws + 1)
  lr := freeBits 4 (s.draws + 2)
  pc := 0x0000#13
  cf := (freeBits 2 (s.draws + 3)).getLsbD 0
  zf := (freeBits 2 (s.draws + 3)).getLsbD 1
  sf := true
  sp := freeBits 4 (s.draws + 4)
  dp := freeBits 12 (s.draws + 5)
  ta := freeBits 12 (s.draws + 6)
  tb := freeBits 12 (s.draws + 7)
  stack := Vector.ofFn fun i => .ofBits (freeBits 16 (s.draws + 8 + i.val))
  ei := false
  mask := 0#4
  il := 0#6
  ram := freeRam s.draws
  rom := s.rom
  latch := ⟨p1Initial s.opts, 0xF#4, 0xF#4, 0xF#4, 0xF#4, 0xF#4, 0xF#4, s.opts.p9Reset.getD (freeBits 4 (s.draws + 21))⟩
  cmd := ⟨0#4, 0#4, 0#4, 0#4, 0#4, 0#4, 0#4, 0#4, 0#4⟩
  htc := ⟨0#8, freeBits 8 (s.draws + 22), (freeBits 1 (s.draws + 23)).getLsbD 0⟩
  mode := .normal
  wks := false
  lfs := false
  lcdPower := false
  wdtCount := freeBits 4 (s.draws + 24)
  pins := s.pins
  schedule := s.schedule
  opts := s.opts
  draws := s.draws + 1024

/-! ### Timers A and B -/

/-- One count of timer A; the count from FFFh requests TRGA (R355). -/
def countA (s : State) : State :=
  if s.ta = 0xFFF#12 then (s.setTa s.opts.timerAfterOverflow).request .trga
  else s.setTa (s.ta + 1#12)

/-- One count of timer B; the count from FFFh requests TRGB (R355). -/
def countB (s : State) : State :=
  if s.tb = 0xFFF#12 then (s.setTb s.opts.timerAfterOverflow).request .trgb
  else s.setTb (s.tb + 1#12)

/-- The external input of timer A, P7.0/TRGA, is at the level that counts (R354). -/
def gateA (s : State) : Bool := s.pins.p7.getLsbD 0 == s.opts.pulseHigh

/-- The external input of timer B, P8.1/TRGB, is at the level that counts (R354). -/
def gateB (s : State) : Bool := s.pins.p8.getLsbD 1 == s.opts.pulseHigh

/-- The external input of the HTC, P4.1/TRGH, is at the level that counts (R365). -/
def gateHtc (s : State) : Bool := s.pins.p4.getLsbD 1 == s.opts.pulseHigh

/-- A timer in this mode counts an internal pulse: always in timer mode, while its input is active in
pulse width measurement mode (R353, R354). -/
def countsPulse (m : TimerMode) (gate : Bool) : Bool :=
  match m with
  | .stop => false
  | .event => false
  | .timer => true
  | .pulse => gate

def pulseA (s : State) : State :=
  if s.mode.running && countsPulse (timerMode s.cmd.p28) (gateA s) then countA s else s

def pulseB (s : State) : State :=
  if s.mode.running && countsPulse (timerMode s.cmd.p29) (gateB s) then countB s else s

/-! ### High speed timer/counter -/

/-- One count of the HTC; the count from FFh reloads the preset and requests HTCI, or toggles the
output in melody mode (R362 to R365). -/
def countHtc (s : State) : State :=
  if s.htc.count = 0xFF#8 then
    if htcMode s.cmd.p31 = .melody then
      s.setHtc { s.htc with count := s.htc.preset, sound := !s.htc.sound }
    else (s.setHtc { s.htc with count := s.htc.preset }).request .htci
  else s.setHtc { s.htc with count := s.htc.count + 1#8 }

/-- The HTC counts a clock in this mode (R361, R365). -/
def htcCounts (m : HtcMode) (gate : Bool) : Bool :=
  match m with
  | .stop => false
  | .autoLoad => true
  | .melody => true
  | .pulse => gate

def clockHtc (s : State) : State :=
  if s.mode.running && htcCounts (htcMode s.cmd.p31) (gateHtc s) then countHtc s else s

/-! ### Time base -/

/-- P25 selects a rate in the present mode (R358). -/
def timeBaseSelected (s : State) : Bool :=
  match timeBaseRate s.opts.freqDouble (s.mode == .slow) s.cmd.p25 with
  | .disabled => false
  | .reserved => false
  | _ => true

def tickTimeBase (s : State) : State :=
  if s.mode.running && timeBaseSelected s then s.request .tbi else s

/-! ### Release of IDLE and STOP -/

/-- The pin of P0 or P2 releases on this edge (R5). -/
def inputReleases (e : Edge) (o : Option Edge) : Bool := o == some e

/-- The pin of another port releases on this edge (R5, R375). -/
def edgeReleases (e : Edge) (o : Option WakeEdge) : Bool :=
  match o, e with
  | none, _ => false
  | some .either, _ => true
  | some .rising, .rising => true
  | some .rising, .falling => false
  | some .falling, .rising => false
  | some .falling, .falling => true

/-- The wake-up option of P4.0: none where it is a plain port pin or the sound output (R5). -/
def p40Wake (o : P40Option) : Option WakeEdge :=
  match o with
  | .port => none
  | .wakeUp e => some e
  | .sound => none

/-- Four bits, the highest first. -/
def nibbleOf (b3 b2 b1 b0 : Bool) : Nibble :=
  BitVec.ofBool b3 ++ BitVec.ofBool b2 ++ BitVec.ofBool b1 ++ BitVec.ofBool b0

/-- The pins of P0 or P2 that release on this edge. -/
def inputMask (e : Edge) (w : InputWake) : Nibble :=
  nibbleOf (inputReleases e w.pin3) (inputReleases e w.pin2) (inputReleases e w.pin1) (inputReleases e w.pin0)

/-- The pins of a port that release IDLE and STOP on this edge, by the mask options; P1, P3 and P6 have no
wake-up pin (R5, R373 to R375). -/
def releaseMask (o : Options) (e : Edge) : PinPort → Nibble
  | .p0 => inputMask e o.p0Wake
  | .p1 => 0#4
  | .p2 => inputMask e o.p2Wake
  | .p3 => 0#4
  | .p4 => nibbleOf (edgeReleases e o.p423Wake) (edgeReleases e o.p423Wake) (edgeReleases e o.p41Wake)
      (edgeReleases e (p40Wake o.p40))
  | .p5 => nibbleOf (edgeReleases e o.p5Wake) (edgeReleases e o.p5Wake) (edgeReleases e o.p5Wake)
      (edgeReleases e o.p5Wake)
  | .p6 => 0#4
  | .p7 => nibbleOf false false false (edgeReleases e o.p70Wake)
  | .p8 => nibbleOf false (edgeReleases e o.p82Wake) (edgeReleases e o.p81Wake) (edgeReleases e o.p80Wake)

/-- Some wake-up pin is enabled in the mask options (R375). -/
def wakeEnabled (o : Options) : Bool :=
  [PinPort.p0, .p2, .p4, .p5, .p7, .p8].any fun p =>
    releaseMask o .rising p ||| releaseMask o .falling p != 0#4

/-- Release by a pin: IDLE to SLOW, STOP to NORMAL; WKS keeps its value (R373 to R375). -/
def releaseByPin (s : State) : State :=
  match s.mode with
  | .idle => s.setMode .slow
  | .stop => s.setMode .normal
  | .normal => s
  | .slow => s

/-- Release of IDLE by the internal signal SIDR selects: WKS becomes 1 (R373, R375). -/
def releaseByTimer (s : State) : State :=
  match s.mode, idleSignal s.opts.freqDouble s.cmd.p19 with
  | .idle, some _ => (s.setMode .slow).setWks true
  | _, _ => s

/-! ### Pins -/

/-- Bits that went from 0 to 1. -/
def risen (old new : Nibble) : Nibble := ~~~old &&& new

/-- Bits that went from 1 to 0. -/
def fallen (old new : Nibble) : Nibble := old &&& ~~~new

/-- The transition `e` happened on bit `b`. -/
def edgeOn (e : Edge) (old new : Nibble) (b : Nat) : Bool :=
  match e with
  | .rising => (risen old new).getLsbD b
  | .falling => (fallen old new).getLsbD b

/-- A change of levels releases IDLE and STOP by an enabled wake-up pin (R375). -/
def wakes (o : Options) (p : PinPort) (old new : Nibble) : Bool :=
  (risen old new &&& releaseMask o .rising p) ||| (fallen old new &&& releaseMask o .falling p) != 0#4

/-- The event counters: a rising edge of P7.0 counts timer A, of P8.1 timer B (R352). -/
def eventCount (p : PinPort) (old new : Nibble) (s : State) : State :=
  match p with
  | .p7 =>
    if s.mode.running && timerMode s.cmd.p28 == .event && (risen old new).getLsbD 0 then countA s
    else s
  | .p8 =>
    if s.mode.running && timerMode s.cmd.p29 == .event && (risen old new).getLsbD 1 then countB s
    else s
  | _ => s

/-- The external interrupts: the transition `INT_EDGE` names on P8.2 requests INT0, on P8.0 INT1, while
the CPU runs or together with a wake-up (R322, R378). -/
def externalRequest (p : PinPort) (old new : Nibble) (allowed : Bool) (s : State) : State :=
  match p with
  | .p8 =>
    let t := if allowed && edgeOn s.opts.int0Edge old new 2 then s.request .int0 else s
    if allowed && edgeOn s.opts.int1Edge old new 0 then t.request .int1 else t
  | _ => s

/-- New levels on the pins of a port, with everything their edges do (R322, R352, R375, R378). -/
def changePins (p : PinPort) (level : Nibble) (s : State) : State :=
  let old := pinsOf s.pins p
  let woken := wakes s.opts p old level
  let t := s.setPins (pinsPut s.pins p level)
  let u := externalRequest p old level (s.mode.running || woken) (eventCount p old level t)
  if woken then releaseByPin u else u

/-! ### Watch-dog timer -/

/-- The watch-dog runs when it exists and the mode is not STOP (R367). -/
def wdtRuns (s : State) : Bool := s.opts.wdtEnable && s.mode != .stop

/-- One count of the watch-dog; at the detect time it resets the chip (R367). -/
def clockWdt (s : State) : State :=
  if wdtRuns s then
    if wdtLimit s.cmd.p21 ≤ (s.wdtCount + 1#4).toNat then resetChip s
    else s.setWdtCount (s.wdtCount + 1#4)
  else s

/-! ### All of them -/

/-- One action of an agent other than the CPU (R378). -/
def deviceAction (e : Event) (s : State) : State :=
  match e with
  | .cpu => s
  | .pins p level => changePins p level s
  | .int0 => if s.mode.running then s.request .int0 else s
  | .int1 => if s.mode.running then s.request .int1 else s
  | .timerAPulse => pulseA s
  | .timerBPulse => pulseB s
  | .htcClock => clockHtc s
  | .timeBaseTick => tickTimeBase s
  | .oscillator stable => s.setLfs stable
  | .wakePin => if wakeEnabled s.opts then releaseByPin s else s
  | .wakeTimer => releaseByTimer s
  | .wdtClock => clockWdt s
  | .wdtTimeUp => if wdtRuns s then resetChip s else s
  | .resetPin => resetChip s

end Sys2Proof.Machine
end

