-- ==== Sys2Proof/Machine/Arithmetic.lean ====
section
/-! DEFINITION. Rotate and arithmetic instructions (spec/41_rotate_arithmetic.md). -/

namespace Sys2Proof.Machine

/-- RLCA (R151). -/
def execRlca (s : State) : Res :=
  let r := rotateLeft s.acc s.cf
  .next (((s.setAcc r.val).flagsAddCarry r).advance 1)

/-- RRCA (R152). -/
def execRrca (s : State) : Res :=
  let r := rotateRight s.acc s.cf
  .next (((s.setAcc r.val).flagsAddCarry r).advance 1)

/-- ADCAM (R153). -/
def execAdcam (s : State) : Res :=
  withHl s fun m =>
    let r := add4 s.acc m s.cf
    .next (((s.setAcc r.val).flagsAddCarry r).advance 1)

/-- ADD #k,y (R154). -/
def execAdd (k y : Nibble) (s : State) : Res :=
  updateData (eaZp y) 2 (fun m => add4 m k false) State.flagsAdd s

/-- ADDA #k (R155). -/
def execAdda (k : Nibble) (s : State) : Res :=
  let r := add4 s.acc k false
  .next (((s.setAcc r.val).flagsAdd r).advance 2)

/-- ADDAM; its C cell is printed as a bullet (R156). -/
def execAddam (s : State) : Res :=
  withHl s fun m =>
    let r := add4 s.acc m false
    .next ((((s.setAcc r.val).bulletCarry r).flagsAdd r).advance 1)

/-- ADDH #k (R157). -/
def execAddh (k : Nibble) (s : State) : Res :=
  let r := add4 s.hr k false
  .next (((s.setHr r.val).flagsAdd r).advance 2)

/-- ADDL #k (R158). -/
def execAddl (k : Nibble) (s : State) : Res :=
  let r := add4 s.lr k false
  .next (((s.setLr r.val).flagsAdd r).advance 2)

/-- ADDM #k (R159). -/
def execAddm (k : Nibble) (s : State) : Res :=
  updateData s.eaHl 2 (fun m => add4 m k false) State.flagsAdd s

/-- DECA; its C cell is printed as a bullet (R160). -/
def execDeca (s : State) : Res :=
  let r := sub4 s.acc 1#4 false
  .next ((((s.setAcc r.val).bulletCarry r).flagsSub r).advance 1)

/-- DECL (R161). -/
def execDecl (s : State) : Res :=
  let r := sub4 s.lr 1#4 false
  .next (((s.setLr r.val).flagsSub r).advance 1)

/-- DECM (R162). -/
def execDecm (s : State) : Res :=
  updateData s.eaHl 1 (fun m => sub4 m 1#4 false) State.flagsSub s

/-- INCA (R163). -/
def execInca (s : State) : Res :=
  let r := add4 s.acc 1#4 false
  .next (((s.setAcc r.val).flagsAdd r).advance 1)

/-- INCL (R164). -/
def execIncl (s : State) : Res :=
  let r := add4 s.lr 1#4 false
  .next (((s.setLr r.val).flagsAdd r).advance 1)

/-- INCM (R165). -/
def execIncm (s : State) : Res :=
  updateData s.eaHl 1 (fun m => add4 m 1#4 false) State.flagsAdd s

/-- SUBA #k: the immediate is the minuend (R166). -/
def execSuba (k : Nibble) (s : State) : Res :=
  let r := sub4 k s.acc false
  .next (((s.setAcc r.val).flagsSub r).advance 2)

/-- SBCAM: RAM[HL] is the minuend, CF = 0 is a pending borrow (R167). -/
def execSbcam (s : State) : Res :=
  withHl s fun m =>
    let r := sub4 m s.acc (!s.cf)
    .next (((s.setAcc r.val).flagsSubCarry r).advance 1)

/-- SUBM #k: the immediate is the minuend (R168). -/
def execSubm (k : Nibble) (s : State) : Res :=
  updateData s.eaHl 2 (fun m => sub4 k m false) State.flagsSub s

end Sys2Proof.Machine
end

