-- ==== Sys2Proof/Machine/BitManipulation.lean ====
section
/-! DEFINITION. Bit manipulation instructions (spec/46_bit_manipulation.md). -/

namespace Sys2Proof.Machine

/-- CLM b (R222). -/
def execClm (b : BitVec 2) (s : State) : Res :=
  updateData s.eaHl 1 (fun m => logic (clearBit m b)) setFlags s

/-- CLP p,b (R223). -/
def execClp (p : Nibble) (b : BitVec 2) (s : State) : Res :=
  updatePort (portOf p) 2 (fun v => clearBit v b) s

/-- CLPL (R224). -/
def execClpl (s : State) : Res := updatePort s.lrPort 1 (fun v => clearBit v s.lrBit) s

/-- CLR y,b (R225). -/
def execClr (y : Nibble) (b : BitVec 2) (s : State) : Res :=
  updateData (eaZp y) 2 (fun m => logic (clearBit m b)) setFlags s

/-- SEM b (R226). -/
def execSem (b : BitVec 2) (s : State) : Res :=
  updateData s.eaHl 1 (fun m => logic (setBit m b)) setFlags s

/-- SEP p,b (R227). -/
def execSep (p : Nibble) (b : BitVec 2) (s : State) : Res :=
  updatePort (portOf p) 2 (fun v => setBit v b) s

/-- SEPL (R228). -/
def execSepl (s : State) : Res := updatePort s.lrPort 1 (fun v => setBit v s.lrBit) s

/-- SET y,b (R229). -/
def execSet (y : Nibble) (b : BitVec 2) (s : State) : Res :=
  updateData (eaZp y) 2 (fun m => logic (setBit m b)) setFlags s

/-- TF y,b (R230). -/
def execTf (y : Nibble) (b : BitVec 2) (s : State) : Res :=
  onOk (readData (eaZp y) s) fun m => .next ((s.setSf (!testBit m b)).advance 2)

/-- TFA b (R231). -/
def execTfa (b : BitVec 2) (s : State) : Res := .next ((s.setSf (!testBit s.acc b)).advance 1)

/-- TFM b (R232). -/
def execTfm (b : BitVec 2) (s : State) : Res :=
  withHl s fun m => .next ((s.setSf (!testBit m b)).advance 1)

/-- TFP p,b (R233). -/
def execTfp (p : Nibble) (b : BitVec 2) (s : State) : Res :=
  testPort (portOf p) 2 (fun v => !testBit v b) s

/-- TFPL (R234). -/
def execTfpl (s : State) : Res := testPort s.lrPort 1 (fun v => !testBit v s.lrBit) s

/-- TT y,b (R235). -/
def execTt (y : Nibble) (b : BitVec 2) (s : State) : Res :=
  onOk (readData (eaZp y) s) fun m => .next ((s.setSf (testBit m b)).advance 2)

/-- TTP p,b (R236). -/
def execTtp (p : Nibble) (b : BitVec 2) (s : State) : Res :=
  testPort (portOf p) 2 (fun v => testBit v b) s

end Sys2Proof.Machine
end

