-- ==== Sys2Proof/Machine/Control.lean ====
section
/-! DEFINITION. Branch, compare and subroutine instructions (spec/44_branch.md, spec/45_compare.md,
spec/47_subroutine.md). -/

namespace Sys2Proof.Machine

/-- SBR a (R200). -/
def execSbr (a : BitVec 6) (s : State) : Res := branchTo (s.shortTarget a) 1 s

/-- LBR a (R201). -/
def execLbr (a : BitVec 12) (s : State) : Res := branchTo (s.longTarget a) 2 s

/-- SLBR a with the prefix 55h: a in 1000h to 1FFFh (R202). -/
def execSlbrHigh (a : BitVec 12) (s : State) : Res := branchTo (1#1 ++ a) 3 s

/-- SLBR a with the prefix 57h: a in 0000h to 0FFFh (R202). -/
def execSlbrLow (a : BitVec 12) (s : State) : Res := branchTo (0#1 ++ a) 3 s

/-- A compare of the `Z'` kind, columns `C Z Z'` (R210). -/
def compareEq (len : Nat) (minuend subtrahend : Nibble) (s : State) : State :=
  (s.flagsCompare (sub4 minuend subtrahend false)).advance len

/-- CMP #k,y (R211). -/
def execCmp (k y : Nibble) (s : State) : Res :=
  onOk (readData (eaZp y) s) fun m => .next (compareEq 2 k m s)

/-- CMPA x (R212). -/
def execCmpa (x : Byte) (s : State) : Res :=
  onOk (readData (s.eaDir x) s) fun m => .next (compareEq 2 m s.acc s)

/-- CMPAM (R213). -/
def execCmpam (s : State) : Res := withHl s fun m => .next (compareEq 1 m s.acc s)

/-- CMPH #k, columns `- Z C` (R214). -/
def execCmph (k : Nibble) (s : State) : Res :=
  .next ((s.flagsSub (sub4 k s.hr false)).advance 2)

/-- CMPIA #k (R215). -/
def execCmpia (k : Nibble) (s : State) : Res := .next (compareEq 1 k s.acc s)

/-- CMPL #k, columns `- Z C` (R216). -/
def execCmpl (k : Nibble) (s : State) : Res :=
  .next ((s.flagsSub (sub4 k s.lr false)).advance 2)

/-- LCALL a (R240). -/
def execLcall (a : BitVec 11) (s : State) : Res := callTo (callTarget a) 2 s

/-- SCALL a (R241). -/
def execScall (n : Nibble) (s : State) : Res := callTo (shortCallTarget n) 1 s

/-- RET: the flags of the level are dropped (R242). -/
def execRet (s : State) : Res := onOk (popEntry s) fun r => .next (r.2.setPc r.1.pc)

end Sys2Proof.Machine
end

