-- ==== Sys2Proof/Machine/DataTransfer.lean ====
section
/-! DEFINITION. Data transfer instructions (spec/40_data_transfer.md). -/

namespace Sys2Proof.Machine

/-- LDA x (R131). -/
def execLda (x : Byte) (s : State) : Res := loadDirect x s

/-- LDAM (R132). -/
def execLdam (s : State) : Res := withHl s fun m => .next (loadAcc 1 m s)

/-- LDAX (R133). -/
def execLdax (s : State) : Res := .next (loadAcc 1 ((s.romByte s.tableAddr).extractLsb' 0 4) s)

/-- LDAXI; DP wraps at FFFh (R134). -/
def execLdaxi (s : State) : Res :=
  .next (loadAcc 1 ((s.romByte s.tableAddr).extractLsb' 4 4) (s.setDp (s.dp + 1#12)))

/-- LDH #k (R135). -/
def execLdh (k : Nibble) (s : State) : Res := .next ((s.setHr k).flagsSet.advance 1)

/-- LDHL x (R136). -/
def execLdhl (x : BitVec 6) (s : State) : Res :=
  onOk (readData (s.eaDir (pairLow x)) s) fun l =>
    onOk (readData (s.eaDir (pairHigh x)) s) fun h =>
      .next (((s.setLr l).setHr h).flagsSet.advance 2)

/-- LDIA #k (R137). -/
def execLdia (k : Nibble) (s : State) : Res := .next (loadAcc 1 k s)

/-- LDL #k (R138). -/
def execLdl (k : Nibble) (s : State) : Res := .next ((s.setLr k).flagsSet.advance 1)

/-- STA x (R139). -/
def execSta (x : Byte) (s : State) : Res := storeDirect x s

/-- STAM (R140). -/
def execStam (s : State) : Res :=
  onOk (writeData s.eaHl s.acc s) fun t => .next (t.flagsSet.advance 1)

/-- STAMD: the store uses the old LR (R141). -/
def execStamd (s : State) : Res := storeThenStep s.acc (sub4 s.lr 1#4 false) State.flagsSub s

/-- STAMI: the store uses the old LR (R142). -/
def execStami (s : State) : Res := storeThenStep s.acc (add4 s.lr 1#4 false) State.flagsAdd s

/-- STD #k,y (R143). -/
def execStd (k y : Nibble) (s : State) : Res :=
  onOk (writeData (eaZp y) k s) fun t => .next (t.flagsSet.advance 2)

/-- STDMI #k (R144). -/
def execStdmi (k : Nibble) (s : State) : Res :=
  storeThenStep k (add4 s.lr 1#4 false) State.flagsAdd s

/-- THA (R145). -/
def execTha (s : State) : Res := .next (loadAcc 1 s.hr s)

/-- TLA (R146). -/
def execTla (s : State) : Res := .next (loadAcc 1 s.lr s)

end Sys2Proof.Machine
end

