-- ==== Sys2Proof/Machine/InputOutput.lean ====
section
/-! DEFINITION. Input and output instructions (spec/48_input_output.md). -/

namespace Sys2Proof.Machine

/-- INA p, columns `- Z Z'` (R251). -/
def execIna (p : Nibble) (s : State) : Res :=
  onOk (portIn (portOf p) s) fun v =>
    .next (((s.drawn.setAcc v).flagsLogic v).advance 2)

/-- INM p: ZF is not written (R252). -/
def execInm (p : Nibble) (s : State) : Res :=
  onOk (portIn (portOf p) s) fun v =>
    onOk (writeData s.eaHl v s.drawn) fun t => .next ((t.setSf (!isZero v)).advance 2)

/-- OUT #k,p (R253). -/
def execOut (k p : Nibble) (s : State) : Res := outputTo (portOf p) k s

/-- OUTA p (R254). -/
def execOuta (p : BitVec 5) (s : State) : Res := outputTo p s.acc s

/-- OUTM p (R255). -/
def execOutm (p : BitVec 5) (s : State) : Res := withHl s fun m => outputTo p m s

end Sys2Proof.Machine
end

