-- ==== Sys2Proof/Machine/Logical.lean ====
section
/-! DEFINITION. Logical instructions (spec/42_logical.md) and exchange instructions
(spec/43_exchange.md). -/

namespace Sys2Proof.Machine

/-- A logical result in Acc, columns `- Z Z'` (R180). -/
def logicAcc (len : Nat) (v : Nibble) (s : State) : State := ((s.setAcc v).flagsLogic v).advance len

/-- ANDA #k (R181). -/
def execAnda (k : Nibble) (s : State) : Res := .next (logicAcc 2 (s.acc &&& k) s)

/-- ANDAM (R182). -/
def execAndam (s : State) : Res := withHl s fun m => .next (logicAcc 1 (s.acc &&& m) s)

/-- ANDM #k (R183). -/
def execAndm (k : Nibble) (s : State) : Res :=
  updateData s.eaHl 2 (fun m => logic (m &&& k)) logicFlags s

/-- ORA #k (R184). -/
def execOra (k : Nibble) (s : State) : Res := .next (logicAcc 2 (s.acc ||| k) s)

/-- ORAM (R185). -/
def execOram (s : State) : Res := withHl s fun m => .next (logicAcc 1 (s.acc ||| m) s)

/-- ORM #k (R186). -/
def execOrm (k : Nibble) (s : State) : Res :=
  updateData s.eaHl 2 (fun m => logic (m ||| k)) logicFlags s

/-- XORAM (R187). -/
def execXoram (s : State) : Res := withHl s fun m => .next (logicAcc 1 (s.acc ^^^ m) s)

/-- Exchange Acc with a RAM nibble; ZF describes what arrives in Acc (R190). -/
def exchangeData (a : DataAddr) (len : Nat) (s : State) : Res :=
  onOk (readData a s) fun m =>
    onOk (writeData a s.acc s) fun t => .next (loadAcc len m t)

/-- EXA x (R191). -/
def execExa (x : Byte) (s : State) : Res := exchangeData (s.eaDir x) 2 s

/-- EXAH (R192). -/
def execExah (s : State) : Res := .next (loadAcc 1 s.hr (s.setHr s.acc))

/-- EXAL (R193). -/
def execExal (s : State) : Res := .next (loadAcc 1 s.lr (s.setLr s.acc))

/-- EXAM (R194). -/
def execExam (s : State) : Res := exchangeData s.eaHl 1 s

/-- EXHL x: both nibbles are read before either is written (R195). -/
def execExhl (x : BitVec 6) (s : State) : Res :=
  onOk (readData (s.eaDir (pairLow x)) s) fun m0 =>
    onOk (readData (s.eaDir (pairHigh x)) s) fun m1 =>
      onOk (writeData (s.eaDir (pairLow x)) s.lr s) fun t =>
        onOk (writeData (s.eaDir (pairHigh x)) s.hr t) fun u =>
          .next (((u.setLr m0).setHr m1).flagsSet.advance 2)

end Sys2Proof.Machine
end

