-- ==== Sys2Proof/Machine/Special.lean ====
section
/-! DEFINITION. Flag manipulation, interrupt control, NOP, and the group-14 instructions
(spec/49_control_special.md). -/

namespace Sys2Proof.Machine

/-- TFCFC (R271). -/
def execTfcfc (s : State) : Res := .next (((s.setSf (!s.cf)).setCf false).advance 1)

/-- TTCFS (R272). -/
def execTtcfs (s : State) : Res := .next (((s.setSf s.cf).setCf true).advance 1)

/-- TZS (R273). -/
def execTzs (s : State) : Res := .next ((s.setSf s.zf).advance 1)

/-- CIL r (R274). -/
def execCil (r : BitVec 6) (s : State) : Res := .next ((s.setIl (s.il &&& r)).flagsSet.advance 2)

/-- DICIL r (R275). -/
def execDicil (r : BitVec 6) (s : State) : Res :=
  .next (((s.setEi false).setIl (s.il &&& r)).flagsSet.advance 2)

/-- EICIL r (R276). -/
def execEicil (r : BitVec 6) (s : State) : Res :=
  .next (((s.setEi true).setIl (s.il &&& r)).flagsSet.advance 2)

/-- EXAE: ZF is not written (R277). -/
def execExae (s : State) : Res := .next (((s.setMask s.acc).setAcc s.mask).flagsSet.advance 1)

/-- RTI (R278). -/
def execRti (s : State) : Res := returnFromInterrupt s

/-- NOP (R279). -/
def execNop (s : State) : Res := .next (s.advance 1)

/-- LDATAL (R287, bank 1: R281). -/
def execLdatal (s : State) : Res := loadDirect 0xF4#8 s

/-- LDATAM (R288, bank 1: R281). -/
def execLdatam (s : State) : Res := loadDirect 0xF5#8 s

/-- LDATAH (R289, bank 1: R281). -/
def execLdatah (s : State) : Res := loadDirect 0xF6#8 s

/-- LDATBL (R290, bank 1: R281). -/
def execLdatbl (s : State) : Res := loadDirect 0xF8#8 s

/-- LDATBM (R291, bank 1: R281). -/
def execLdatbm (s : State) : Res := loadDirect 0xF9#8 s

/-- LDATBH (R292, bank 1: R281). -/
def execLdatbh (s : State) : Res := loadDirect 0xFA#8 s

/-- LDADPL (R293, bank 1: R281). -/
def execLdadpl (s : State) : Res := loadDirect 0xFC#8 s

/-- LDADPM (R294, bank 1: R281). -/
def execLdadpm (s : State) : Res := loadDirect 0xFD#8 s

/-- LDADPH (R295, bank 1: R281). -/
def execLdadph (s : State) : Res := loadDirect 0xFE#8 s

/-- LDASP (R296, bank 1: R281). -/
def execLdasp (s : State) : Res := loadDirect 0xFF#8 s

/-- STATAL (R297, bank 1: R281). -/
def execStatal (s : State) : Res := storeDirect 0xF4#8 s

/-- STATAM (R298, bank 1: R281). -/
def execStatam (s : State) : Res := storeDirect 0xF5#8 s

/-- STATAH (R299, bank 1: R281). -/
def execStatah (s : State) : Res := storeDirect 0xF6#8 s

/-- STATBL (R300, bank 1: R281). -/
def execStatbl (s : State) : Res := storeDirect 0xF8#8 s

/-- STATBM (R301, bank 1: R281). -/
def execStatbm (s : State) : Res := storeDirect 0xF9#8 s

/-- STATBH (R302, bank 1: R281). -/
def execStatbh (s : State) : Res := storeDirect 0xFA#8 s

/-- STADPL (R303, bank 1: R281). -/
def execStadpl (s : State) : Res := storeDirect 0xFC#8 s

/-- STADPM (R304, bank 1: R281). -/
def execStadpm (s : State) : Res := storeDirect 0xFD#8 s

/-- STADPH (R305, bank 1: R281). -/
def execStadph (s : State) : Res := storeDirect 0xFE#8 s

/-- STASP (R306, bank 1: R281). -/
def execStasp (s : State) : Res := storeDirect 0xFF#8 s

end Sys2Proof.Machine
end

