-- ==== Sys2Proof/Machine/Dispatch.lean ====
section
/-! DEFINITION. The meaning of every instruction: one arm per constructor of Instr. -/

namespace Sys2Proof.Machine

def exec (i : Instr) (s : State) : Host.Outcome State Fault Refusal :=
  match i with
  | .lda x => Sys2Proof.Machine.execLda x s
  | .ldam => Sys2Proof.Machine.execLdam s
  | .ldax => Sys2Proof.Machine.execLdax s
  | .ldaxi => Sys2Proof.Machine.execLdaxi s
  | .ldh k => Sys2Proof.Machine.execLdh k s
  | .ldhl x => Sys2Proof.Machine.execLdhl x s
  | .ldia k => Sys2Proof.Machine.execLdia k s
  | .ldl k => Sys2Proof.Machine.execLdl k s
  | .sta x => Sys2Proof.Machine.execSta x s
  | .stam => Sys2Proof.Machine.execStam s
  | .stamd => Sys2Proof.Machine.execStamd s
  | .stami => Sys2Proof.Machine.execStami s
  | .std k y => Sys2Proof.Machine.execStd k y s
  | .stdmi k => Sys2Proof.Machine.execStdmi k s
  | .tha => Sys2Proof.Machine.execTha s
  | .tla => Sys2Proof.Machine.execTla s
  | .rlca => Sys2Proof.Machine.execRlca s
  | .rrca => Sys2Proof.Machine.execRrca s
  | .adcam => Sys2Proof.Machine.execAdcam s
  | .add k y => Sys2Proof.Machine.execAdd k y s
  | .adda k => Sys2Proof.Machine.execAdda k s
  | .addam => Sys2Proof.Machine.execAddam s
  | .addh k => Sys2Proof.Machine.execAddh k s
  | .addl k => Sys2Proof.Machine.execAddl k s
  | .addm k => Sys2Proof.Machine.execAddm k s
  | .deca => Sys2Proof.Machine.execDeca s
  | .decl => Sys2Proof.Machine.execDecl s
  | .decm => Sys2Proof.Machine.execDecm s
  | .inca => Sys2Proof.Machine.execInca s
  | .incl => Sys2Proof.Machine.execIncl s
  | .incm => Sys2Proof.Machine.execIncm s
  | .suba k => Sys2Proof.Machine.execSuba k s
  | .sbcam => Sys2Proof.Machine.execSbcam s
  | .subm k => Sys2Proof.Machine.execSubm k s
  | .anda k => Sys2Proof.Machine.execAnda k s
  | .andam => Sys2Proof.Machine.execAndam s
  | .andm k => Sys2Proof.Machine.execAndm k s
  | .ora k => Sys2Proof.Machine.execOra k s
  | .oram => Sys2Proof.Machine.execOram s
  | .orm k => Sys2Proof.Machine.execOrm k s
  | .xoram => Sys2Proof.Machine.execXoram s
  | .exa x => Sys2Proof.Machine.execExa x s
  | .exah => Sys2Proof.Machine.execExah s
  | .exal => Sys2Proof.Machine.execExal s
  | .exam => Sys2Proof.Machine.execExam s
  | .exhl x => Sys2Proof.Machine.execExhl x s
  | .sbr a => Sys2Proof.Machine.execSbr a s
  | .lbr a => Sys2Proof.Machine.execLbr a s
  | .slbrHigh a => Sys2Proof.Machine.execSlbrHigh a s
  | .slbrLow a => Sys2Proof.Machine.execSlbrLow a s
  | .cmp k y => Sys2Proof.Machine.execCmp k y s
  | .cmpa x => Sys2Proof.Machine.execCmpa x s
  | .cmpam => Sys2Proof.Machine.execCmpam s
  | .cmph k => Sys2Proof.Machine.execCmph k s
  | .cmpia k => Sys2Proof.Machine.execCmpia k s
  | .cmpl k => Sys2Proof.Machine.execCmpl k s
  | .clm b => Sys2Proof.Machine.execClm b s
  | .clp p b => Sys2Proof.Machine.execClp p b s
  | .clpl => Sys2Proof.Machine.execClpl s
  | .clr y b => Sys2Proof.Machine.execClr y b s
  | .sem b => Sys2Proof.Machine.execSem b s
  | .sep p b => Sys2Proof.Machine.execSep p b s
  | .sepl => Sys2Proof.Machine.execSepl s
  | .set y b => Sys2Proof.Machine.execSet y b s
  | .tf y b => Sys2Proof.Machine.execTf y b s
  | .tfa b => Sys2Proof.Machine.execTfa b s
  | .tfm b => Sys2Proof.Machine.execTfm b s
  | .tfp p b => Sys2Proof.Machine.execTfp p b s
  | .tfpl => Sys2Proof.Machine.execTfpl s
  | .tt y b => Sys2Proof.Machine.execTt y b s
  | .ttp p b => Sys2Proof.Machine.execTtp p b s
  | .lcall a => Sys2Proof.Machine.execLcall a s
  | .scall n => Sys2Proof.Machine.execScall n s
  | .ret => Sys2Proof.Machine.execRet s
  | .ina p => Sys2Proof.Machine.execIna p s
  | .inm p => Sys2Proof.Machine.execInm p s
  | .out k p => Sys2Proof.Machine.execOut k p s
  | .outa p => Sys2Proof.Machine.execOuta p s
  | .outm p => Sys2Proof.Machine.execOutm p s
  | .tfcfc => Sys2Proof.Machine.execTfcfc s
  | .ttcfs => Sys2Proof.Machine.execTtcfs s
  | .tzs => Sys2Proof.Machine.execTzs s
  | .cil r => Sys2Proof.Machine.execCil r s
  | .dicil r => Sys2Proof.Machine.execDicil r s
  | .eicil r => Sys2Proof.Machine.execEicil r s
  | .exae => Sys2Proof.Machine.execExae s
  | .rti => Sys2Proof.Machine.execRti s
  | .nop => Sys2Proof.Machine.execNop s
  | .ldatal => Sys2Proof.Machine.execLdatal s
  | .ldatam => Sys2Proof.Machine.execLdatam s
  | .ldatah => Sys2Proof.Machine.execLdatah s
  | .ldatbl => Sys2Proof.Machine.execLdatbl s
  | .ldatbm => Sys2Proof.Machine.execLdatbm s
  | .ldatbh => Sys2Proof.Machine.execLdatbh s
  | .ldadpl => Sys2Proof.Machine.execLdadpl s
  | .ldadpm => Sys2Proof.Machine.execLdadpm s
  | .ldadph => Sys2Proof.Machine.execLdadph s
  | .ldasp => Sys2Proof.Machine.execLdasp s
  | .statal => Sys2Proof.Machine.execStatal s
  | .statam => Sys2Proof.Machine.execStatam s
  | .statah => Sys2Proof.Machine.execStatah s
  | .statbl => Sys2Proof.Machine.execStatbl s
  | .statbm => Sys2Proof.Machine.execStatbm s
  | .statbh => Sys2Proof.Machine.execStatbh s
  | .stadpl => Sys2Proof.Machine.execStadpl s
  | .stadpm => Sys2Proof.Machine.execStadpm s
  | .stadph => Sys2Proof.Machine.execStadph s
  | .stasp => Sys2Proof.Machine.execStasp s

end Sys2Proof.Machine
end

