-- ==== Sys2Proof/Machine/Fetch.lean ====
section
/-! DEFINITION. One step: who acts at this boundary, and the CPU's turn (spec/60_exceptions.md R325, R370,
R378; spec/20_memory.md R72). -/

namespace Sys2Proof.Machine

/-- The instruction at PC: three bytes are looked at, addresses modulo 2^13 (R26, R72). -/
def State.fetch (s : State) : Except DecodeError Instr :=
  decode (s.romByte s.pc) (s.romByte (s.pc + 1#13)) (s.romByte (s.pc + 2#13))

/-- Fetch and run one instruction (R107, R325). -/
def runInstruction (s : State) : Res :=
  match s.fetch with
  | .ok i => exec i s
  | .error _ => .fault .unassignedEncoding

/-- The CPU's turn at a boundary: an interrupt acceptance if one is pending, else one instruction; in
IDLE and STOP the CPU takes no step (R325, R370). -/
def cpuTurn (s : State) : Res :=
  if s.mode.running then
    match s.pendingSource with
    | some n => takeInterrupt n s
    | none => runInstruction s
  else .next s

/-- The first entry of the schedule acts; with nothing scheduled the CPU does (R378). -/
def boundary (s : State) : Res :=
  match s.schedule with
  | [] => cpuTurn s
  | .cpu :: rest => cpuTurn (s.setSchedule rest)
  | e :: rest => .next (deviceAction e (s.setSchedule rest))

/-- The three bytes of an opcode-table word stored where the next fetch reads them. -/
def storeFetchWord (s : State) (nbits w : Nat) : State :=
  s.setRom (placeRom s.rom s.pc
    [(tableBytes nbits w).1, (tableBytes nbits w).2.1, (tableBytes nbits w).2.2])

end Sys2Proof.Machine
end

