-- ==== Sys2Proof/Machine/Step.lean ====
section
/-! DEFINITION. The step of the machine, and the placing of one instruction where it fetches. -/

namespace Sys2Proof.Machine

/-- One step: one action of one agent at an instruction boundary (R378). -/
def step (s : State) : Host.Outcome State Fault Refusal := boundary s

/-- The machine with one opcode-table word stored at PC: it stands for the mask ROM's contents, which
come from outside (R4; notes/assumptions/2.md). -/
def State.withFetchWord (s : State) (nbits w : Nat) : State := storeFetchWord s nbits w

end Sys2Proof.Machine
end

