-- ==== Sys2Proof/Machine/Outputs.lean ====
section
/-! DEFINITION. What the chip shows outside: the clocks that run, the sound pins, the LCD. Nothing the CPU
sees depends on it (spec/60_exceptions.md R364, R368, R370). -/

namespace Sys2Proof.Machine

open Sys2Proof.Config

/-- The high-frequency oscillator runs (R370). -/
def Mode.highClock : Mode → Bool
  | .normal => true
  | .slow => false
  | .idle => false
  | .stop => false

/-- The low-frequency oscillator runs (R370). -/
def Mode.lowClock : Mode → Bool
  | .normal => true
  | .slow => true
  | .idle => true
  | .stop => false

/-- The HTC drives the sound output: melody mode, not in IDLE or STOP (R360, R364, R366). DESIGN CHOICE
(notes/assumptions/40.md): in IDLE with HTMS = 10 the outputs are those of no melody mode, SOUND low and P4.0
high; the spec says that the HTC does not run there, not whether the suspended output holds its level. -/
def State.melody (s : State) : Bool := s.mode.running && htcMode s.cmd.p31 == .melody

/-- The SOUND pin: the square wave in melody mode, low otherwise (R364). -/
def State.soundPin (s : State) : Bool := s.melody && s.htc.sound

/-- What drives P4.0: the inverse sound output when the mask option makes it one, the latch otherwise
(R5, R364). -/
def State.p40Drive (s : State) : Bool :=
  if s.opts.p4Sound then !s.soundPin else s.latch.p4.getLsbD 0

/-- The LCD is on: the program has enabled it since the last reset and the last STOP, and the chip is not in
STOP (R368, R374, R394). -/
def State.lcdOn (s : State) : Bool := s.lcdPower && s.mode != .stop

/-- The LCD driver drives the COM pins: on, with LDC = 11 (R368). -/
def State.lcdShows (s : State) : Bool := s.lcdOn && lcdMode s.cmd.p27 == .enabled

/-- The LCD driver drives the SEG pins: on, with LDC = 11 or with LDC = 01, blanking, when "the SEG pins
continuously output the display data" (R368). DEDUCED (notes/assumptions/23.md): a blanking LCD that the
program has not enabled since a reset or STOP outputs nothing, because the LCD is off then (R374, R394). -/
def State.segmentsDriven (s : State) : Bool :=
  s.lcdShows || (s.lcdOn && lcdMode s.cmd.p27 == .blanking)

/-- The pin is a segment pin: SEG30 and SEG31 are so only by `P3_01_OPTION` (R5, R368). -/
def isSegmentPin (o : Options) (seg : Fin 32) : Bool := decide (seg.val < 30) || o.p3Segments

/-- The RAM address of the display nibble of a segment: 020h + SEG, bank 0 (R82, R368). -/
def segmentAddr (seg : Fin 32) : DataAddr := 0x020#9 + BitVec.ofNat 9 seg.val

/-- The display data that a SEG pin outputs for a common: a bit of the display nibble, for the commons the
duty uses (R368). -/
def State.segmentData (s : State) (seg : Fin 32) (com : Fin 4) : Bool :=
  s.segmentsDriven && isSegmentPin s.opts seg && decide (com.val < lcdCommons s.cmd.p27) &&
    (s.peek (segmentAddr seg)).getLsbD com.val

/-- The dot at a segment and a common is lit: the COM pins are active and the SEG pin outputs a 1 (R368). -/
def State.lcdDot (s : State) (seg : Fin 32) (com : Fin 4) : Bool := s.lcdShows && s.segmentData seg com

end Sys2Proof.Machine
end

