-- ==== Sys2Proof/Machine/Timing.lean ====
section
/-! DEFINITION. Instruction cycles and clock rates (spec/70_reset_and_hazards.md R386, R387; the parameters fc
and fs of R6): timing only, no rule of the machine reads them. -/

namespace Sys2Proof

/-- Cycles of each instruction (R387). -/
def Instr.cycles : Instr → Nat
  | .ldam | .ldh _ | .ldia _ | .ldl _ | .stam | .stamd => 1
  | .stami | .stdmi _ | .tha | .tla | .rlca | .rrca => 1
  | .adcam | .addam | .deca | .decl | .decm | .inca => 1
  | .incl | .incm | .sbcam | .andam | .oram | .xoram => 1
  | .exam | .sbr _ | .cmpam | .cmpia _ | .clm _ | .sem _ => 1
  | .tfa _ | .tfm _ | .tfcfc | .ttcfs | .tzs | .exae => 1
  | .nop => 1
  | .lda _ | .ldax | .ldaxi | .ldhl _ | .sta _ | .std _ _ => 2
  | .add _ _ | .adda _ | .addh _ | .addl _ | .addm _ | .suba _ => 2
  | .subm _ | .anda _ | .andm _ | .ora _ | .orm _ | .exa _ => 2
  | .exah | .exal | .exhl _ | .lbr _ | .cmp _ _ | .cmpa _ => 2
  | .cmph _ | .cmpl _ | .clp _ _ | .clpl | .clr _ _ | .sep _ _ => 2
  | .sepl | .set _ _ | .tf _ _ | .tfp _ _ | .tfpl | .tt _ _ => 2
  | .ttp _ _ | .lcall _ | .scall _ | .ret | .ina _ | .inm _ => 2
  | .out _ _ | .outa _ | .outm _ | .cil _ | .dicil _ | .eicil _ => 2
  | .rti | .ldatal | .ldatam | .ldatah | .ldatbl | .ldatbm => 2
  | .ldatbh | .ldadpl | .ldadpm | .ldadph | .ldasp | .statal => 2
  | .statam | .statah | .statbl | .statbm | .statbh | .stadpl => 2
  | .stadpm | .stadph | .stasp => 2
  | .slbrHigh _ | .slbrLow _ => 3

/-- Periods of the system clock in one instruction cycle (R386). -/
def clocksPerCycle : Nat := 8

/-- Periods of the system clock in one instruction (R386, R387). -/
def Instr.clocks (i : Instr) : Nat := clocksPerCycle * i.cycles

/-- The rate of the system clock in Hz: fc in NORMAL mode, fs in SLOW mode, twice that with frequency double;
none in IDLE and STOP, where the CPU stops (R370, R386). -/
def Machine.State.systemClock (s : Machine.State) : Option Nat :=
  match s.mode with
  | .normal => some s.opts.fc
  | .slow => some (if s.opts.freqDouble then 2 * s.opts.fs else s.opts.fs)
  | .idle => none
  | .stop => none

/-- A rate of the command tables in Hz, as numerator and denominator: LXIN is fs, RCIN the high-frequency fc
(R61, R63, R64; spec/00_scope.md glossary). -/
def Machine.Rate.hertz (o : Config.Options) : Machine.Rate → Option (Nat × Nat)
  | .lxin k => some (o.fs * 2 ^ (-k).toNat, 2 ^ k.toNat)
  | .rcin k => some (o.fc * 2 ^ (-k).toNat, 2 ^ k.toNat)
  | .disabled => none
  | .reserved => none
  | .htc => none

end Sys2Proof
end

