-- ==== Sys2Proof/Safety.lean ====
section
/-! DEFINITION. What claims about the machine speak of: the invariant of the state, the memory a statement
looks at, when the CPU is about to run an instruction, and when a run has ended. -/

namespace Sys2Proof.Machine

open Sys2Proof.Config

/-! ### The invariant -/

/-- Both memories are canonical and list no address the chip does not have (R68, R71, R74). -/
def State.memoryOk (s : State) : Bool := Memory.wf isRamAddr s.ram && Memory.wf isRomAddr s.rom

/-- No command register holds a code that is reserved in every mode (R379). -/
def commandsOk (c : Commands) : Bool :=
  (c.p16.getLsbD 2 || swwt c.p16 == 0#3) &&
  (fieldHigh c.p19 == 0#2 || fieldHigh c.p19 == 1#2) &&
  fieldHigh c.p25 != 2#2 &&
  lcdMode c.p27 != .reserved

/-- The mode agrees with the command registers that lead to it: no running unit has a rate that SLOW mode
reserves (R379), IDLE was asked for through P19 (R373), STOP through P16, with the LCD off (R374). -/
def State.modeOk (s : State) : Bool :=
  match s.mode with
  | .normal => true
  | .slow => !slowReserved s.opts.freqDouble s.cmd
  | .idle => !slowReserved s.opts.freqDouble s.cmd && fieldHigh s.cmd.p19 == 1#2
  | .stop => s.cmd.p16.getLsbD 2 && !s.lcdPower

/-- The latch bits that have no pin hold 1: nothing writes them (R52; notes/assumptions/10.md). -/
def State.latchOk (s : State) : Bool :=
  (s.latch.p1 ||| pinMask s.opts .p1 == 0xF#4) && (s.latch.p3 ||| pinMask s.opts .p3 == 0xF#4) &&
  (s.latch.p6 ||| pinMask s.opts .p6 == 0xF#4) && (s.latch.p7 ||| pinMask s.opts .p7 == 0xF#4) &&
  (s.latch.p8 ||| pinMask s.opts .p8 == 0xF#4)

/-- What every step keeps. -/
def State.Inv (s : State) : Prop :=
  s.memoryOk = true ∧ commandsOk s.cmd = true ∧ s.modeOk = true ∧ s.latchOk = true

/-! ### Memory, as statements look at it -/

/-- A data address that names a RAM nibble: 000h to 0F3h or 100h to 1FFh (R74). -/
def IsRam (a : DataAddr) : Prop := a.toNat < 0x0F4 ∨ 0x100 ≤ a.toNat

/-- A bank-0 address of the special area, 0F4h to 0FFh (R74). -/
def InSpecialArea (a : DataAddr) : Prop := 0x0F4 ≤ a.toNat ∧ a.toNat ≤ 0x0FF

/-- The model vouches for the data address: STACK_RAM_MAP is given, or the address is outside 0C0h to 0F3h
(R44; spec/92_eei_decisions.md D4; spec/93_implementation_defined.md U21). -/
def Vouched (s : State) (a : DataAddr) : Prop :=
  s.opts.stackMap ≠ none ∨ a.toNat < 0x0C0 ∨ 0x0F3 < a.toNat

/-- The nibble at `a` reads `v` in `t`; every other nibble of data memory reads as in `s`, and no stack level
changes unless the nibble belongs to one (R44). Where the model vouches neither for `a` nor for the other
nibble, and for the stack where it does not vouch for `a`, any value may stand (U21). -/
def StoredOnly (a : DataAddr) (v : Nibble) (s t : State) : Prop :=
  (Vouched s a → t.peek a = v) ∧
    (∀ b : DataAddr, b ≠ a → Vouched s a ∨ Vouched s b → t.peek b = s.peek b) ∧
    (Vouched s a → s.stackSlot a = none → t.stack = s.stack) ∧
    ∀ l q, s.stackSlot a = some (l, q) → ∀ k : Fin 13, k ≠ l → t.stack[k.val] = s.stack[k.val]

/-- The two nibbles at `a` and `b` read `v` and `w` in `t`, every other nibble as in `s`; no stack level
changes unless it holds one of the two (R44); with the limits of `StoredOnly` where the model does not vouch
(U21). -/
def StoredOnlyPair (a : DataAddr) (v : Nibble) (b : DataAddr) (w : Nibble) (s t : State) : Prop :=
  (Vouched s a → t.peek a = v) ∧ (Vouched s b → t.peek b = w) ∧
    (∀ c : DataAddr, c ≠ a → c ≠ b → (Vouched s a ∧ Vouched s b) ∨ Vouched s c → t.peek c = s.peek c) ∧
    ∀ k : Fin 13, Vouched s a → Vouched s b → (∀ q, s.stackSlot a ≠ some (k, q)) →
      (∀ q, s.stackSlot b ≠ some (k, q)) → t.stack[k.val] = s.stack[k.val]

/-! ### Encodings, as statements look at them -/

/-- The bytes encode the instruction and nothing else decodes from them, whatever bytes follow; `cyc` is the
cycle count of the instruction table (R101, R387). -/
def Coded (bytes : List Byte) (cyc : Nat) (i : Instr) : Prop :=
  i.encode = bytes ∧ i.cycles = cyc ∧ ∀ rest : List Byte, decodeBytes (bytes ++ rest) = .ok (i, rest)

/-- The second bytes that make 6Ah and 69h a group-14 instruction (R106). -/
def specialBytes : List Byte :=
  [0xF4#8, 0xF5#8, 0xF6#8, 0xF8#8, 0xF9#8, 0xFA#8, 0xFC#8, 0xFD#8, 0xFE#8, 0xFF#8]

/-! ### Flags, as the instruction table prints them -/

/-- A cell of the columns `C Z S` (R33): `-`, `0`, `1`, `C`, `C'`, `Z`, `Z'`, `*`. -/
inductive FlagCell where
  | keep
  | zero
  | one
  | carry
  | noCarry
  | isZero
  | nonZero
  | star
  deriving DecidableEq, Repr

/-- The three cells of a row. -/
structure FlagColumns where
  c : FlagCell
  z : FlagCell
  s : FlagCell
  deriving DecidableEq, Repr

/-- The columns `C Z S` of every row (spec/opcode_table.source.json; the bullets of ADDAM and DECA read as
`-`, R156, R160). -/
def flagColumns : Instr → FlagColumns
  | .lda _ | .ldam | .ldax | .ldaxi | .ldia _ | .tha | .tla | .exa _ => ⟨.keep, .isZero, .one⟩
  | .exah | .exal | .exam | .ldatal | .ldatam | .ldatah | .ldatbl => ⟨.keep, .isZero, .one⟩
  | .ldatbm | .ldatbh | .ldadpl | .ldadpm | .ldadph | .ldasp => ⟨.keep, .isZero, .one⟩
  | .ldh _ | .ldhl _ | .ldl _ | .sta _ | .stam | .std _ _ | .exhl _ => ⟨.keep, .keep, .one⟩
  | .sbr _ | .lbr _ | .slbrHigh _ | .slbrLow _ | .clm _ | .clp _ _ | .clpl => ⟨.keep, .keep, .one⟩
  | .clr _ _ | .sem _ | .sep _ _ | .sepl | .set _ _ | .out _ _ | .outa _ => ⟨.keep, .keep, .one⟩
  | .outm _ | .cil _ | .dicil _ | .eicil _ | .exae | .statal | .statam => ⟨.keep, .keep, .one⟩
  | .statah | .statbl | .statbm | .statbh | .stadpl | .stadpm | .stadph => ⟨.keep, .keep, .one⟩
  | .stasp => ⟨.keep, .keep, .one⟩
  | .stamd | .deca | .decl | .decm | .suba _ | .subm _ | .cmph _ | .cmpl _ => ⟨.keep, .isZero, .carry⟩
  | .stami | .stdmi _ | .add _ _ | .adda _ | .addam | .addh _ | .addl _ => ⟨.keep, .isZero, .noCarry⟩
  | .addm _ | .inca | .incl | .incm => ⟨.keep, .isZero, .noCarry⟩
  | .rlca | .rrca | .adcam => ⟨.carry, .isZero, .noCarry⟩
  | .sbcam => ⟨.carry, .isZero, .carry⟩
  | .anda _ | .andam | .andm _ | .ora _ | .oram | .orm _ | .xoram | .ina _ => ⟨.keep, .isZero, .nonZero⟩
  | .cmp _ _ | .cmpa _ | .cmpam | .cmpia _ => ⟨.carry, .isZero, .nonZero⟩
  | .tf _ _ | .tfa _ | .tfm _ | .tfp _ _ | .tfpl | .tt _ _ | .ttp _ _ => ⟨.keep, .keep, .star⟩
  | .tzs => ⟨.keep, .keep, .star⟩
  | .lcall _ | .scall _ | .ret | .nop => ⟨.keep, .keep, .keep⟩
  | .inm _ => ⟨.keep, .keep, .nonZero⟩
  | .tfcfc => ⟨.zero, .keep, .star⟩
  | .ttcfs => ⟨.one, .keep, .star⟩
  | .rti => ⟨.star, .star, .star⟩

/-! ### Ports, as the port table prints them -/

/-- The bits of ports 0 to 8 that have a pin (R52); P3.0 and P3.1 are segments when the option says so (R5). -/
def pinExists (o : Options) (p b : Nat) : Bool :=
  match p with
  | 0 => b < 4
  | 1 => b < 2
  | 2 => b < 4
  | 3 => b < 4 && (2 ≤ b || !o.p3Segments)
  | 4 => b < 4
  | 5 => b < 4
  | 6 => b < 2
  | 7 => b < 1
  | 8 => b < 3
  | _ => false

/-- The level the environment holds on the pins of a port (R87). -/
def levelOf (s : State) (p : Nat) : Nibble :=
  match p with
  | 0 => s.pins.p0
  | 1 => s.pins.p1
  | 2 => s.pins.p2
  | 3 => s.pins.p3
  | 4 => s.pins.p4
  | 5 => s.pins.p5
  | 6 => s.pins.p6
  | 7 => s.pins.p7
  | _ => s.pins.p8

/-- The output latch of a bidirectional port (R51). -/
def latchOf (s : State) (p : Nat) : Nibble :=
  match p with
  | 1 => s.latch.p1
  | 3 => s.latch.p3
  | 4 => s.latch.p4
  | 5 => s.latch.p5
  | 6 => s.latch.p6
  | 7 => s.latch.p7
  | _ => s.latch.p8

/-- Ports an input or test instruction can read, and an output or bit instruction of four port bits can
write: 0 to 11 and 14 (R49, R65). -/
def lowPort (p : Nat) : Prop := p ≤ 11 ∨ p = 14

/-- What the spec fixes of the nibble `v` that reading port `p` gives (R49, R54, R55, R56, R87): the levels
of the pins that exist; the latch of port 9; the HTC count while HTMS is 00; WKS, LFS and CPUS. -/
def ReadsAs (p : Nat) (s : State) (v : Nibble) : Prop :=
  if p = 9 then v = s.latch.p9
  else if p = 10 then s.cmd.p31.toNat / 4 = 0 → v.toNat = s.htc.count.toNat % 16
  else if p = 11 then s.cmd.p31.toNat / 4 = 0 → v.toNat = s.htc.count.toNat / 16
  else if p = 14 then
    v.getLsbD 2 = s.wks ∧ v.getLsbD 1 = s.lfs ∧ v.getLsbD 0 = decide (s.mode = .slow)
  else ∀ b, pinExists s.opts p b = true → v.getLsbD b = (levelOf s p).getLsbD b

/-- What a write of `v` to port `p` does, ports 0 to 15 (R50 to R56, R88): nothing on the input ports; the
latch bits that exist; the latch of port 9; a nibble of the HTC preset; WKS cleared. -/
def WritesAs (p : Nat) (v : Nibble) (s t : State) : Prop :=
  if p = 0 ∨ p = 2 then t = s
  else if p = 9 then t = { s with latch := { s.latch with p9 := v } }
  else if p = 10 then
    t = { s with htc := { s.htc with
      preset := BitVec.ofNat 8 (16 * (s.htc.preset.toNat / 16) + v.toNat) } }
  else if p = 11 then
    t = { s with htc := { s.htc with
      preset := BitVec.ofNat 8 (16 * v.toNat + s.htc.preset.toNat % 16) } }
  else if p = 14 then t = { s with wks := false }
  else
    t = { s with latch := t.latch } ∧ t.latch.p9 = s.latch.p9 ∧
    (∀ b, b < 4 → (latchOf t p).getLsbD b =
      if pinExists s.opts p b then v.getLsbD b else (latchOf s p).getLsbD b) ∧
    ∀ q, q ∈ [1, 3, 4, 5, 6, 7, 8] → q ≠ p → latchOf t q = latchOf s q

/-- The nibble a bit set or clear starts from: the latch of a bidirectional port, the latch of port 9, the
HTC preset (R88); ports 0, 2 and 14 take no nibble. -/
def latchNibble (s : State) (p : Nat) : Nibble :=
  if p = 9 then s.latch.p9
  else if p = 10 then BitVec.ofNat 4 (s.htc.preset.toNat % 16)
  else if p = 11 then BitVec.ofNat 4 (s.htc.preset.toNat / 16)
  else latchOf s p

/-- A unit that is not stopped has a rate SLOW mode reserves: timer A with IPSA = 00, the HTC with HIPS = 10 or
11, or P25 = 0100, 0101, 0110, 1100 (R379). -/
def slowForbidden (c : Commands) : Prop :=
  c.p28 ∈ [0x4#4, 0x8#4, 0xC#4] ∨ c.p31 ∈ [0x6#4, 0x7#4, 0xA#4, 0xB#4, 0xE#4, 0xF#4] ∨
    c.p25 ∈ [0x4#4, 0x5#4, 0x6#4, 0xC#4]

/-- The bit of P22 that tells "normal to slow" from "slow to normal": the top bit of SOM (R60). -/
def somTop (o : Options) (v : Nibble) : Bool :=
  if o.somUnused = 3#2 then v.getLsbD 2 else v.getLsbD 3

/-- The transition `e` from `old` to `new` on bit `b`. -/
def transition (e : Edge) (old new : Nibble) (b : Nat) : Bool :=
  match e with
  | .rising => !old.getLsbD b && new.getLsbD b
  | .falling => old.getLsbD b && !new.getLsbD b

/-- The edges on which a pin of P4, P5, P7 or P8 with this option releases. -/
def wakeEdges : Option WakeEdge → List Edge
  | none => []
  | some .rising => [.rising]
  | some .falling => [.falling]
  | some .either => [.rising, .falling]

/-- The edges on which a pin releases IDLE and STOP, by the mask options: P0, P2, P4, P5 (four pins each),
P7.0, P8.0 to P8.2; P4.0 as the sound output has no wake-up (R5, R373 to R375). -/
def releaseEdges (o : Options) (p : PinPort) (b : Nat) : List Edge :=
  match p, b with
  | .p0, 0 => o.p0Wake.pin0.toList
  | .p0, 1 => o.p0Wake.pin1.toList
  | .p0, 2 => o.p0Wake.pin2.toList
  | .p0, 3 => o.p0Wake.pin3.toList
  | .p2, 0 => o.p2Wake.pin0.toList
  | .p2, 1 => o.p2Wake.pin1.toList
  | .p2, 2 => o.p2Wake.pin2.toList
  | .p2, 3 => o.p2Wake.pin3.toList
  | .p4, 0 =>
    match o.p40 with
    | .wakeUp e => wakeEdges (some e)
    | .port => []
    | .sound => []
  | .p4, 1 => wakeEdges o.p41Wake
  | .p4, 2 => wakeEdges o.p423Wake
  | .p4, 3 => wakeEdges o.p423Wake
  | .p5, 0 => wakeEdges o.p5Wake
  | .p5, 1 => wakeEdges o.p5Wake
  | .p5, 2 => wakeEdges o.p5Wake
  | .p5, 3 => wakeEdges o.p5Wake
  | .p7, 0 => wakeEdges o.p70Wake
  | .p8, 0 => wakeEdges o.p80Wake
  | .p8, 1 => wakeEdges o.p81Wake
  | .p8, 2 => wakeEdges o.p82Wake
  | _, _ => []

/-- A pin of the port changes to `v` by an edge that the mask options make a release (R375). -/
def Releases (s : State) (p : PinPort) (v : Nibble) : Prop :=
  ∃ b e, e ∈ releaseEdges s.opts p b ∧ transition e (pinsOf s.pins p) v b = true

/-! ### Interrupt sources, as their table prints them -/

/-- Latch bit, entry address, and the MASK bit that gates the source, highest priority first (R320, R321). -/
def sourceTable : List (Nat × RomAddr × Option Nat) :=
  [(5, 0x0002#13, none), (4, 0x0004#13, some 3), (3, 0x0006#13, some 2), (2, 0x0008#13, some 1),
   (1, 0x000A#13, some 0), (0, 0x000C#13, some 0)]

/-- The source of a row is latched and its condition holds (R321). -/
def requested (s : State) (r : Nat × RomAddr × Option Nat) : Bool :=
  s.ei && s.il.getLsbD r.1 &&
    match r.2.2 with
    | none => true
    | some m => s.mask.getLsbD m

/-! ### Runs -/

/-- Instructions one after another, as `exec` answers them. -/
def execAll : List Instr → State → Res
  | [], s => .next s
  | i :: rest, s =>
    match exec i s with
    | .next t => execAll rest t
    | r => r

/-- A subroutine call. -/
def isCall : Instr → Bool
  | .lcall _ => true
  | .scall _ => true
  | _ => false

/-- The CPU is about to run the instruction at PC: it is the CPU's turn, it is not stopped, and no
interrupt is accepted first (R325, R370). -/
def State.aboutToRun (s : State) : Prop :=
  s.schedule = [] ∧ s.mode.running = true ∧ s.pendingSource = none

/-- The instruction at PC is a branch to itself that is taken (R399). -/
def State.branchesToItself (s : State) : Bool :=
  s.sf &&
    match s.fetch with
    | .ok (.sbr a) => s.shortTarget a == s.pc
    | .ok (.lbr a) => s.longTarget a == s.pc
    | .ok (.slbrHigh a) => (1#1 ++ a : RomAddr) == s.pc
    | .ok (.slbrLow a) => (0#1 ++ a : RomAddr) == s.pc
    | _ => false

/-- A run has ended: a taken branch to itself with EI = 0, or STOP mode with no wake-up enabled (R399). -/
def State.runEnded (s : State) : Bool :=
  (s.mode.running && !s.ei && s.branchesToItself) || (s.mode == .stop && !wakeEnabled s.opts)

end Sys2Proof.Machine
end

