-- ==== Sys2Proof/Certificates/Slice0/Obligations.lean ====
section
/-! DEFINITION. The statements for the provers. A result statement is an equation for the next state, so it
says the frame as well: whatever the update does not name keeps its value, memory included. Where an
instruction stores to data memory the equation leaves `ram` and `stack` to a clause that says which nibble
changes (`StoredOnly`). -/

open Sys2Proof Sys2Proof.Machine Sys2Proof.Config

/-! ### Registers and flags -/

/-- LDIA, LDH, LDL, THA, TLA (R135, R137, R138, R145, R146). -/
def Obligations.RegisterLoads : Prop :=
  ∀ (s : State) (k : Nibble),
    (Coded [0xD#4 ++ k] 1 (.ldia k) ∧
      exec (.ldia k) s = .next { s with acc := k, zf := k == 0#4, sf := true, pc := s.pc + 1#13 }) ∧
    (Coded [0x9#4 ++ k] 1 (.ldh k) ∧
      exec (.ldh k) s = .next { s with hr := k, sf := true, pc := s.pc + 1#13 }) ∧
    (Coded [0x8#4 ++ k] 1 (.ldl k) ∧
      exec (.ldl k) s = .next { s with lr := k, sf := true, pc := s.pc + 1#13 }) ∧
    (Coded [0x76#8] 1 .tha ∧
      exec .tha s = .next { s with acc := s.hr, zf := s.hr == 0#4, sf := true, pc := s.pc + 1#13 }) ∧
    (Coded [0x74#8] 1 .tla ∧
      exec .tla s = .next { s with acc := s.lr, zf := s.lr == 0#4, sf := true, pc := s.pc + 1#13 })

/-- ADDA, ADDH, ADDL, INCA, INCL, SUBA, DECL: the result modulo 16; after an addition SF is the complement of
the carry, after a subtraction it is 1 when nothing was borrowed; the immediate of SUBA is the minuend; CF is
kept (R155, R157, R158, R161, R163, R164, R166). -/
def Obligations.RegisterArithmetic : Prop :=
  ∀ (s : State) (k : Nibble),
    (Coded [0x6E#8, 0x5#4 ++ k] 2 (.adda k) ∧
      exec (.adda k) s = .next { s with
        acc := s.acc + k, zf := s.acc + k == 0#4, sf := decide (s.acc.toNat + k.toNat < 16),
        pc := s.pc + 2#13 }) ∧
    (Coded [0x6E#8, 0x9#4 ++ k] 2 (.addh k) ∧
      exec (.addh k) s = .next { s with
        hr := s.hr + k, zf := s.hr + k == 0#4, sf := decide (s.hr.toNat + k.toNat < 16),
        pc := s.pc + 2#13 }) ∧
    (Coded [0x6E#8, 0x1#4 ++ k] 2 (.addl k) ∧
      exec (.addl k) s = .next { s with
        lr := s.lr + k, zf := s.lr + k == 0#4, sf := decide (s.lr.toNat + k.toNat < 16),
        pc := s.pc + 2#13 }) ∧
    (Coded [0x5E#8] 1 .inca ∧
      exec .inca s = .next { s with
        acc := s.acc + 1#4, zf := s.acc + 1#4 == 0#4, sf := s.acc != 0xF#4, pc := s.pc + 1#13 }) ∧
    (Coded [0x7E#8] 1 .incl ∧
      exec .incl s = .next { s with
        lr := s.lr + 1#4, zf := s.lr + 1#4 == 0#4, sf := s.lr != 0xF#4, pc := s.pc + 1#13 }) ∧
    (Coded [0x6E#8, 0x7#4 ++ k] 2 (.suba k) ∧
      exec (.suba k) s = .next { s with
        acc := k - s.acc, zf := k == s.acc, sf := decide (s.acc.toNat ≤ k.toNat), pc := s.pc + 2#13 }) ∧
    (Coded [0x7C#8] 1 .decl ∧
      exec .decl s = .next { s with
        lr := s.lr - 1#4, zf := s.lr == 1#4, sf := s.lr != 0#4, pc := s.pc + 1#13 })

/-- RLCA and RRCA move Acc and CF as one ring of five bits; five times RLCA is the identity on it (R151,
R152). -/
def Obligations.Rotates : Prop :=
  (Coded [0x50#8] 1 .rlca ∧ Coded [0x51#8] 1 .rrca) ∧
  (∀ s : State, ∃ r : Nibble, exec .rlca s = .next { s with
    acc := r, cf := s.acc.getLsbD 3, zf := r == 0#4, sf := !s.acc.getLsbD 3, pc := s.pc + 1#13 } ∧
    r.toNat = (2 * s.acc.toNat + s.cf.toNat) % 16) ∧
  (∀ s : State, ∃ r : Nibble, exec .rrca s = .next { s with
    acc := r, cf := s.acc.getLsbD 0, zf := r == 0#4, sf := !s.acc.getLsbD 0, pc := s.pc + 1#13 } ∧
    r.toNat = 8 * s.cf.toNat + s.acc.toNat / 2) ∧
  ∀ s : State, ∃ t : State, execAll [.rlca, .rlca, .rlca, .rlca, .rlca] s = .next t ∧
    t.acc = s.acc ∧ t.cf = s.cf

/-- ANDA and ORA (R181, R184). -/
def Obligations.LogicImmediate : Prop :=
  ∀ (s : State) (k : Nibble),
    (Coded [0x6E#8, 0x6#4 ++ k] 2 (.anda k) ∧
      exec (.anda k) s = .next { s with
        acc := s.acc &&& k, zf := s.acc &&& k == 0#4, sf := s.acc &&& k != 0#4, pc := s.pc + 2#13 }) ∧
    (Coded [0x6E#8, 0x4#4 ++ k] 2 (.ora k) ∧
      exec (.ora k) s = .next { s with
        acc := s.acc ||| k, zf := s.acc ||| k == 0#4, sf := s.acc ||| k != 0#4, pc := s.pc + 2#13 })

/-- CMPIA sets CF to "k at least Acc", ZF to "equal", SF to "different"; CMPH and CMPL leave CF and set SF to
"k at least the register"; no register changes (R214, R215, R216). -/
def Obligations.CompareImmediate : Prop :=
  ∀ (s : State) (k : Nibble),
    (Coded [0xB#4 ++ k] 1 (.cmpia k) ∧
      exec (.cmpia k) s = .next { s with
        cf := decide (s.acc.toNat ≤ k.toNat), zf := k == s.acc, sf := k != s.acc, pc := s.pc + 1#13 }) ∧
    (Coded [0x6E#8, 0xB#4 ++ k] 2 (.cmph k) ∧
      exec (.cmph k) s = .next { s with
        zf := k == s.hr, sf := decide (s.hr.toNat ≤ k.toNat), pc := s.pc + 2#13 }) ∧
    (Coded [0x6E#8, 0x3#4 ++ k] 2 (.cmpl k) ∧
      exec (.cmpl k) s = .next { s with
        zf := k == s.lr, sf := decide (s.lr.toNat ≤ k.toNat), pc := s.pc + 2#13 })

/-- TFCFC, TTCFS, TZS, TFA, NOP (R231, R271, R272, R273, R279). -/
def Obligations.FlagMoves : Prop :=
  ∀ (s : State) (b : BitVec 2),
    (Coded [0x53#8] 1 .tfcfc ∧
      exec .tfcfc s = .next { s with sf := !s.cf, cf := false, pc := s.pc + 1#13 }) ∧
    (Coded [0x52#8] 1 .ttcfs ∧
      exec .ttcfs s = .next { s with sf := s.cf, cf := true, pc := s.pc + 1#13 }) ∧
    (Coded [0x5B#8] 1 .tzs ∧ exec .tzs s = .next { s with sf := s.zf, pc := s.pc + 1#13 }) ∧
    (Coded [0x3E#6 ++ b] 1 (.tfa b) ∧
      exec (.tfa b) s = .next { s with sf := !s.acc.getLsbD b.toNat, pc := s.pc + 1#13 }) ∧
    (Coded [0x56#8] 1 .nop ∧ exec .nop s = .next { s with pc := s.pc + 1#13 })

/-- EXAH and EXAL: both sides are read first; ZF describes what arrives in Acc, which is the spec's own
choice (92_eei_decisions.md D10; R192, R193). -/
def Obligations.RegisterExchanges : Prop :=
  ∀ s : State,
    (Coded [0x66#8] 2 .exah ∧
      exec .exah s = .next { s with
        acc := s.hr, hr := s.acc, zf := s.hr == 0#4, sf := true, pc := s.pc + 1#13 }) ∧
    (Coded [0x64#8] 2 .exal ∧
      exec .exal s = .next { s with
        acc := s.lr, lr := s.acc, zf := s.lr == 0#4, sf := true, pc := s.pc + 1#13 })

/-- CIL, DICIL, EICIL clear latches and switch EI; EXAE exchanges MASK and Acc without touching ZF. After
DICIL nothing is accepted; after EICIL a latched source whose MASK bit is set is pending at once, which is
the spec's own choice (D9; R274 to R277). -/
def Obligations.InterruptControl : Prop :=
  ∀ (s : State) (r : BitVec 6),
    (Coded [0x63#8, 3#2 ++ r] 2 (.cil r) ∧
      exec (.cil r) s = .next { s with il := s.il &&& r, sf := true, pc := s.pc + 2#13 }) ∧
    (Coded [0x63#8, 2#2 ++ r] 2 (.dicil r) ∧
      ∃ t, exec (.dicil r) s = .next t ∧ t.pendingSource = none ∧
        t = { s with ei := false, il := s.il &&& r, sf := true, pc := s.pc + 2#13 }) ∧
    (Coded [0x63#8, 1#2 ++ r] 2 (.eicil r) ∧
      ∃ t, exec (.eicil r) s = .next t ∧
        t = { s with ei := true, il := s.il &&& r, sf := true, pc := s.pc + 2#13 } ∧
        ((t.pendingSource).isSome = true ↔ ∃ q ∈ sourceTable,
          (s.il.getLsbD q.1 && r.getLsbD q.1) = true ∧ ∀ m, q.2.2 = some m → s.mask.getLsbD m = true)) ∧
    (Coded [0x75#8] 1 .exae ∧
      exec .exae s = .next { s with mask := s.acc, acc := s.mask, sf := true, pc := s.pc + 1#13 })

/-- LDAX and LDAXI read the byte at 1000h + DP; LDAXI then steps DP modulo 2^12, the spec's own choice at
FFFh (D12; R73, R133, R134). -/
def Obligations.TableLookup : Prop :=
  ∀ (s : State) (b : Byte), Memory.read s.rom (0x1000 + s.dp.toNat) = b →
    (Coded [0x65#8] 2 .ldax ∧
      exec .ldax s = .next { s with
        acc := BitVec.ofNat 4 (b.toNat % 16), zf := decide (b.toNat % 16 = 0), sf := true,
        pc := s.pc + 1#13 }) ∧
    (Coded [0x67#8] 2 .ldaxi ∧
      exec .ldaxi s = .next { s with
        acc := BitVec.ofNat 4 (b.toNat / 16), zf := decide (b.toNat / 16 = 0), sf := true,
        dp := s.dp + 1#12, pc := s.pc + 1#13 })

/-! ### Data memory -/

/-- The three address forms (R75, R76, R77). -/
def Obligations.EffectiveAddresses : Prop :=
  ∀ (s : State) (x : Byte) (y : Nibble),
    s.eaHl.toNat = 256 * (s.latch.p9.getLsbD 3).toNat + 16 * s.hr.toNat + s.lr.toNat ∧
    (s.eaDir x).toNat = 256 * (s.latch.p9.getLsbD 3).toNat + x.toNat ∧
    (eaZp y).toNat = y.toNat

/-- STD, ADD and CMP work on the nibble 000h + y of bank 0, whatever P9.3 holds (R143, R154, R211). -/
def Obligations.ZeroPageArithmetic : Prop :=
  ∀ (s : State) (k y : Nibble) (m : Nibble), s.peek (0#5 ++ y) = m →
    (Coded [0x48#8, k ++ y] 2 (.std k y) ∧ ∃ t, exec (.std k y) s = .next t ∧
      StoredOnly (0#5 ++ y) k s t ∧
      t = { s with ram := t.ram, stack := t.stack, sf := true, pc := s.pc + 2#13 }) ∧
    (Coded [0x49#8, k ++ y] 2 (.add k y) ∧ ∃ t, exec (.add k y) s = .next t ∧
      StoredOnly (0#5 ++ y) (m + k) s t ∧
      t = { s with
        ram := t.ram, stack := t.stack, zf := m + k == 0#4, sf := decide (m.toNat + k.toNat < 16),
        pc := s.pc + 2#13 }) ∧
    (Coded [0x4B#8, k ++ y] 2 (.cmp k y) ∧
      exec (.cmp k y) s = .next { s with
        cf := decide (m.toNat ≤ k.toNat), zf := k == m, sf := k != m, pc := s.pc + 2#13 })

/-- CLR, SET, TF and TT work on one bit of the nibble 000h + y of bank 0 (R225, R229, R230, R235). -/
def Obligations.ZeroPageBits : Prop :=
  ∀ (s : State) (y : Nibble) (b : BitVec 2) (m : Nibble), s.peek (0#5 ++ y) = m →
    (Coded [0x6C#8, 3#2 ++ b ++ y] 2 (.clr y b) ∧ ∃ t v, exec (.clr y b) s = .next t ∧
      StoredOnly (0#5 ++ y) v s t ∧
      (∀ c, c < 4 → v.getLsbD c = if c = b.toNat then false else m.getLsbD c) ∧
      t = { s with ram := t.ram, stack := t.stack, sf := true, pc := s.pc + 2#13 }) ∧
    (Coded [0x6C#8, 1#2 ++ b ++ y] 2 (.set y b) ∧ ∃ t v, exec (.set y b) s = .next t ∧
      StoredOnly (0#5 ++ y) v s t ∧
      (∀ c, c < 4 → v.getLsbD c = if c = b.toNat then true else m.getLsbD c) ∧
      t = { s with ram := t.ram, stack := t.stack, sf := true, pc := s.pc + 2#13 }) ∧
    (Coded [0x6C#8, 0#2 ++ b ++ y] 2 (.tf y b) ∧
      exec (.tf y b) s = .next { s with sf := !m.getLsbD b.toNat, pc := s.pc + 2#13 }) ∧
    (Coded [0x6C#8, 2#2 ++ b ++ y] 2 (.tt y b) ∧
      exec (.tt y b) s = .next { s with sf := m.getLsbD b.toNat, pc := s.pc + 2#13 })

/-- LDAM, LDA x and LDHL x, where the addresses name RAM nibbles (R131, R132, R136, R78). -/
def Obligations.LoadsFromRam : Prop :=
  (Coded [0x5A#8] 1 .ldam ∧ (∀ x : Byte, x ∉ specialBytes → Coded [0x6A#8, x] 2 (.lda x)) ∧
    ∀ x : BitVec 6, Coded [0x4E#8, x ++ 0#2] 2 (.ldhl x)) ∧
  (∀ (s : State) (m : Nibble), IsRam s.eaHl → s.peek s.eaHl = m →
    exec .ldam s = .next { s with acc := m, zf := m == 0#4, sf := true, pc := s.pc + 1#13 }) ∧
  (∀ (s : State) (x : Byte) (m : Nibble), IsRam (s.eaDir x) → s.peek (s.eaDir x) = m →
    exec (.lda x) s = .next { s with acc := m, zf := m == 0#4, sf := true, pc := s.pc + 2#13 }) ∧
  ∀ (s : State) (x : BitVec 6), IsRam (s.eaDir (x ++ 0#2)) →
    exec (.ldhl x) s = .next { s with
      lr := s.peek (s.eaDir (x ++ 0#2)), hr := s.peek (s.eaDir (x ++ 1#2)), sf := true,
      pc := s.pc + 2#13 }

/-- ADCAM and SBCAM carry through CF; ADDAM and DECA write CF only where the parameter
`BULLET_C_WRITES_CF` says so, the spec's own choice (D31, log 24; R153, R156, R160, R167). -/
def Obligations.AccumulatorArithmetic : Prop :=
  (Coded [0x70#8] 1 .adcam ∧ Coded [0x72#8] 1 .sbcam ∧ Coded [0x71#8] 1 .addam ∧ Coded [0x5C#8] 1 .deca) ∧
  (∀ (s : State) (m : Nibble), IsRam s.eaHl → s.peek s.eaHl = m →
    (∃ r : Nibble, r.toNat = (s.acc.toNat + m.toNat + s.cf.toNat) % 16 ∧
      exec .adcam s = .next { s with
        acc := r, cf := decide (16 ≤ s.acc.toNat + m.toNat + s.cf.toNat), zf := r == 0#4,
        sf := decide (s.acc.toNat + m.toNat + s.cf.toNat < 16), pc := s.pc + 1#13 }) ∧
    (∃ r : Nibble, r.toNat = (m.toNat + 31 + s.cf.toNat - s.acc.toNat) % 16 ∧
      exec .sbcam s = .next { s with
        acc := r, cf := decide (s.acc.toNat + 1 ≤ m.toNat + s.cf.toNat), zf := r == 0#4,
        sf := decide (s.acc.toNat + 1 ≤ m.toNat + s.cf.toNat), pc := s.pc + 1#13 }) ∧
    exec .addam s = .next { s with
      acc := s.acc + m,
      cf := if s.opts.bulletCWritesCF then decide (16 ≤ s.acc.toNat + m.toNat) else s.cf,
      zf := s.acc + m == 0#4, sf := decide (s.acc.toNat + m.toNat < 16), pc := s.pc + 1#13 }) ∧
  ∀ s : State, exec .deca s = .next { s with
    acc := s.acc - 1#4, cf := if s.opts.bulletCWritesCF then s.acc != 0#4 else s.cf,
    zf := s.acc == 1#4, sf := s.acc != 0#4, pc := s.pc + 1#13 }

/-- ANDAM, ORAM, XORAM, CMPAM, CMPA x and TFM read one RAM nibble and change no memory (R182, R185, R187,
R212, R213, R232). -/
def Obligations.ReadersOfRam : Prop :=
  (Coded [0x7B#8] 1 .andam ∧ Coded [0x78#8] 1 .oram ∧ Coded [0x79#8] 1 .xoram ∧ Coded [0x73#8] 1 .cmpam ∧
    (∀ b : BitVec 2, Coded [0x3F#6 ++ b] 1 (.tfm b)) ∧ ∀ x : Byte, Coded [0x6B#8, x] 2 (.cmpa x)) ∧
  (∀ (s : State) (m : Nibble), IsRam s.eaHl → s.peek s.eaHl = m →
    exec .andam s = .next { s with
      acc := s.acc &&& m, zf := s.acc &&& m == 0#4, sf := s.acc &&& m != 0#4, pc := s.pc + 1#13 } ∧
    exec .oram s = .next { s with
      acc := s.acc ||| m, zf := s.acc ||| m == 0#4, sf := s.acc ||| m != 0#4, pc := s.pc + 1#13 } ∧
    exec .xoram s = .next { s with
      acc := s.acc ^^^ m, zf := s.acc == m, sf := s.acc != m, pc := s.pc + 1#13 } ∧
    exec .cmpam s = .next { s with
      cf := decide (s.acc.toNat ≤ m.toNat), zf := m == s.acc, sf := m != s.acc, pc := s.pc + 1#13 } ∧
    ∀ b : BitVec 2, exec (.tfm b) s = .next { s with sf := !m.getLsbD b.toNat, pc := s.pc + 1#13 }) ∧
  ∀ (s : State) (x : Byte) (m : Nibble), IsRam (s.eaDir x) → s.peek (s.eaDir x) = m →
    exec (.cmpa x) s = .next { s with
      cf := decide (s.acc.toNat ≤ m.toNat), zf := m == s.acc, sf := m != s.acc, pc := s.pc + 2#13 }

/-- STAM, STAMD, STAMI, STDMI k and STA x: the store uses LR as it was; ZF and SF of STAMD, STAMI and STDMI
describe the new LR, the spec's own choice (D10; R139 to R144). -/
def Obligations.StoresToRam : Prop :=
  (Coded [0x59#8] 1 .stam ∧ Coded [0x7D#8] 1 .stamd ∧ Coded [0x7F#8] 1 .stami ∧
    (∀ k : Nibble, Coded [0xA#4 ++ k] 1 (.stdmi k)) ∧
    ∀ x : Byte, x ∉ specialBytes → Coded [0x69#8, x] 2 (.sta x)) ∧
  (∀ s : State, IsRam s.eaHl →
    (∃ t, exec .stam s = .next t ∧ StoredOnly s.eaHl s.acc s t ∧
      t = { s with ram := t.ram, stack := t.stack, sf := true, pc := s.pc + 1#13 }) ∧
    (∃ t, exec .stamd s = .next t ∧ StoredOnly s.eaHl s.acc s t ∧
      t = { s with
        ram := t.ram, stack := t.stack, lr := s.lr - 1#4, zf := s.lr == 1#4, sf := s.lr != 0#4,
        pc := s.pc + 1#13 }) ∧
    (∃ t, exec .stami s = .next t ∧ StoredOnly s.eaHl s.acc s t ∧
      t = { s with
        ram := t.ram, stack := t.stack, lr := s.lr + 1#4, zf := s.lr == 0xF#4, sf := s.lr != 0xF#4,
        pc := s.pc + 1#13 }) ∧
    ∀ k : Nibble, ∃ t, exec (.stdmi k) s = .next t ∧ StoredOnly s.eaHl k s t ∧
      t = { s with
        ram := t.ram, stack := t.stack, lr := s.lr + 1#4, zf := s.lr == 0xF#4, sf := s.lr != 0xF#4,
        pc := s.pc + 1#13 }) ∧
  ∀ (s : State) (x : Byte), IsRam (s.eaDir x) →
    ∃ t, exec (.sta x) s = .next t ∧ StoredOnly (s.eaDir x) s.acc s t ∧
      t = { s with ram := t.ram, stack := t.stack, sf := true, pc := s.pc + 2#13 }

/-- ADDM, INCM, DECM, SUBM, ANDM, ORM, CLM and SEM read RAM[HL] and write it back, with their flags (R159,
R162, R165, R168, R183, R186, R222, R226). -/
def Obligations.ReadModifyWrites : Prop :=
  (Coded [0x5F#8] 1 .incm ∧ Coded [0x5D#8] 1 .decm ∧
    (∀ k : Nibble, Coded [0x6E#8, 0xD#4 ++ k] 2 (.addm k) ∧ Coded [0x6E#8, 0xF#4 ++ k] 2 (.subm k) ∧
      Coded [0x6E#8, 0xE#4 ++ k] 2 (.andm k) ∧ Coded [0x6E#8, 0xC#4 ++ k] 2 (.orm k)) ∧
    ∀ b : BitVec 2, Coded [0x3C#6 ++ b] 1 (.clm b) ∧ Coded [0x3D#6 ++ b] 1 (.sem b)) ∧
  ∀ (s : State) (m : Nibble), IsRam s.eaHl → s.peek s.eaHl = m →
    (∀ k : Nibble, ∃ t, exec (.addm k) s = .next t ∧ StoredOnly s.eaHl (m + k) s t ∧
      t = { s with
        ram := t.ram, stack := t.stack, zf := m + k == 0#4, sf := decide (m.toNat + k.toNat < 16),
        pc := s.pc + 2#13 }) ∧
    (∃ t, exec .incm s = .next t ∧ StoredOnly s.eaHl (m + 1#4) s t ∧
      t = { s with
        ram := t.ram, stack := t.stack, zf := m == 0xF#4, sf := m != 0xF#4, pc := s.pc + 1#13 }) ∧
    (∃ t, exec .decm s = .next t ∧ StoredOnly s.eaHl (m - 1#4) s t ∧
      t = { s with
        ram := t.ram, stack := t.stack, zf := m == 1#4, sf := m != 0#4, pc := s.pc + 1#13 }) ∧
    (∀ k : Nibble, ∃ t, exec (.subm k) s = .next t ∧ StoredOnly s.eaHl (k - m) s t ∧
      t = { s with
        ram := t.ram, stack := t.stack, zf := k == m, sf := decide (m.toNat ≤ k.toNat),
        pc := s.pc + 2#13 }) ∧
    (∀ k : Nibble, ∃ t, exec (.andm k) s = .next t ∧ StoredOnly s.eaHl (m &&& k) s t ∧
      t = { s with
        ram := t.ram, stack := t.stack, zf := m &&& k == 0#4, sf := m &&& k != 0#4,
        pc := s.pc + 2#13 }) ∧
    (∀ k : Nibble, ∃ t, exec (.orm k) s = .next t ∧ StoredOnly s.eaHl (m ||| k) s t ∧
      t = { s with
        ram := t.ram, stack := t.stack, zf := m ||| k == 0#4, sf := m ||| k != 0#4,
        pc := s.pc + 2#13 }) ∧
    (∀ b : BitVec 2, ∃ t v, exec (.clm b) s = .next t ∧ StoredOnly s.eaHl v s t ∧
      (∀ c, c < 4 → v.getLsbD c = if c = b.toNat then false else m.getLsbD c) ∧
      t = { s with ram := t.ram, stack := t.stack, sf := true, pc := s.pc + 1#13 }) ∧
    ∀ b : BitVec 2, ∃ t v, exec (.sem b) s = .next t ∧ StoredOnly s.eaHl v s t ∧
      (∀ c, c < 4 → v.getLsbD c = if c = b.toNat then true else m.getLsbD c) ∧
      t = { s with ram := t.ram, stack := t.stack, sf := true, pc := s.pc + 1#13 }

/-- EXAM, EXA x and EXHL x: everything is read before anything is written; ZF of EXAM and EXA describes what
arrives in Acc, the spec's own choice (D10; R191, R194, R195). -/
def Obligations.ExchangesWithRam : Prop :=
  (Coded [0x58#8] 1 .exam ∧ (∀ x : Byte, Coded [0x68#8, x] 2 (.exa x)) ∧
    ∀ x : BitVec 6, Coded [0x4C#8, x ++ 0#2] 2 (.exhl x)) ∧
  (∀ s : State, IsRam s.eaHl → ∃ t, exec .exam s = .next t ∧ StoredOnly s.eaHl s.acc s t ∧
    t = { s with
      ram := t.ram, stack := t.stack, acc := s.peek s.eaHl, zf := s.peek s.eaHl == 0#4, sf := true,
      pc := s.pc + 1#13 }) ∧
  (∀ (s : State) (x : Byte), IsRam (s.eaDir x) →
    ∃ t, exec (.exa x) s = .next t ∧ StoredOnly (s.eaDir x) s.acc s t ∧
    t = { s with
      ram := t.ram, stack := t.stack, acc := s.peek (s.eaDir x), zf := s.peek (s.eaDir x) == 0#4,
      sf := true, pc := s.pc + 2#13 }) ∧
  ∀ (s : State) (x : BitVec 6), IsRam (s.eaDir (x ++ 0#2)) →
    ∃ t, exec (.exhl x) s = .next t ∧
      StoredOnlyPair (s.eaDir (x ++ 0#2)) s.lr (s.eaDir (x ++ 1#2)) s.hr s t ∧
      t = { s with
        ram := t.ram, stack := t.stack, lr := s.peek (s.eaDir (x ++ 0#2)),
        hr := s.peek (s.eaDir (x ++ 1#2)), sf := true, pc := s.pc + 2#13 }

/-- The bank-0 addresses 0F4h to 0FFh: every instruction that forms one stops with the named fault, but for
LDA and STA on the ten registers; the fault is the spec's own choice (D8; R78, R79). -/
def Obligations.SpecialAreaFaults : Prop :=
  (∀ s : State, InSpecialArea s.eaHl → ∀ i : Instr,
    (i ∈ [.ldam, .stam, .stamd, .stami, .adcam, .addam, .sbcam, .incm, .decm, .andam, .oram, .xoram,
          .exam, .cmpam] ∨
      (∃ k, i ∈ [.stdmi k, .addm k, .subm k, .andm k, .orm k]) ∨ (∃ b, i ∈ [.clm b, .sem b, .tfm b]) ∨
      (∃ p, i = .outm p) ∨ ∃ p : Nibble, lowPort p.toNat ∧ i = .inm p) →
    exec i s = .fault .bank0SpecialArea) ∧
  (∀ (s : State) (x : Byte), InSpecialArea (s.eaDir x) →
    exec (.exa x) s = .fault .bank0SpecialArea ∧ exec (.cmpa x) s = .fault .bank0SpecialArea ∧
    (x ∈ [0xF7#8, 0xFB#8] → exec (.lda x) s = .fault .bank0SpecialArea ∧
      exec (.sta x) s = .fault .bank0SpecialArea)) ∧
  ∀ (s : State) (x : BitVec 6), InSpecialArea (s.eaDir (x ++ 0#2)) →
    exec (.ldhl x) s = .fault .bank0SpecialArea ∧ exec (.exhl x) s = .fault .bank0SpecialArea

/-! ### Special registers -/

/-- The ten loads of group 14 with P9.3 = 0 (R287 to R296). -/
def Obligations.SpecialRegisterLoads : Prop :=
  ∀ row ∈ ([(.ldatal, 0xF4#8, fun s => s.ta.extractLsb' 0 4), (.ldatam, 0xF5#8, fun s => s.ta.extractLsb' 4 4),
      (.ldatah, 0xF6#8, fun s => s.ta.extractLsb' 8 4), (.ldatbl, 0xF8#8, fun s => s.tb.extractLsb' 0 4),
      (.ldatbm, 0xF9#8, fun s => s.tb.extractLsb' 4 4), (.ldatbh, 0xFA#8, fun s => s.tb.extractLsb' 8 4),
      (.ldadpl, 0xFC#8, fun s => s.dp.extractLsb' 0 4), (.ldadpm, 0xFD#8, fun s => s.dp.extractLsb' 4 4),
      (.ldadph, 0xFE#8, fun s => s.dp.extractLsb' 8 4), (.ldasp, 0xFF#8, fun s => s.sp)] :
        List (Instr × Byte × (State → Nibble))),
    Coded [0x6A#8, row.2.1] 2 row.1 ∧
    ∀ s : State, s.latch.p9.getLsbD 3 = false →
      exec row.1 s = .next { s with
        acc := row.2.2 s, zf := row.2.2 s == 0#4, sf := true, pc := s.pc + 2#13 }

/-- The ten stores of group 14 with P9.3 = 0: one nibble of a register becomes Acc, the others keep their
value (R297 to R306). -/
def Obligations.SpecialRegisterStores : Prop :=
  ∀ row ∈ ([(.statal, 0xF4#8, fun s => { s with ta := s.ta.extractLsb' 4 8 ++ s.acc }),
      (.statam, 0xF5#8, fun s => { s with ta := s.ta.extractLsb' 8 4 ++ s.acc ++ s.ta.extractLsb' 0 4 }),
      (.statah, 0xF6#8, fun s => { s with ta := s.acc ++ s.ta.extractLsb' 0 8 }),
      (.statbl, 0xF8#8, fun s => { s with tb := s.tb.extractLsb' 4 8 ++ s.acc }),
      (.statbm, 0xF9#8, fun s => { s with tb := s.tb.extractLsb' 8 4 ++ s.acc ++ s.tb.extractLsb' 0 4 }),
      (.statbh, 0xFA#8, fun s => { s with tb := s.acc ++ s.tb.extractLsb' 0 8 }),
      (.stadpl, 0xFC#8, fun s => { s with dp := s.dp.extractLsb' 4 8 ++ s.acc }),
      (.stadpm, 0xFD#8, fun s => { s with dp := s.dp.extractLsb' 8 4 ++ s.acc ++ s.dp.extractLsb' 0 4 }),
      (.stadph, 0xFE#8, fun s => { s with dp := s.acc ++ s.dp.extractLsb' 0 8 }),
      (.stasp, 0xFF#8, fun s => { s with sp := s.acc })] : List (Instr × Byte × (State → State))),
    Coded [0x69#8, row.2.1] 2 row.1 ∧
    ∀ s : State, s.latch.p9.getLsbD 3 = false →
      exec row.1 s = .next { row.2.2 s with sf := true, pc := s.pc + 2#13 }

/-- With P9.3 = 1 a group-14 instruction is the LDA x or STA x of its bytes on the bank-1 nibble 100h + x,
and no register is touched; the spec's own choice (D7; R281). -/
def Obligations.SpecialRegistersInBankOne : Prop :=
  ∀ row ∈ ([(.ldatal, .statal, 0xF4#8), (.ldatam, .statam, 0xF5#8), (.ldatah, .statah, 0xF6#8),
      (.ldatbl, .statbl, 0xF8#8), (.ldatbm, .statbm, 0xF9#8), (.ldatbh, .statbh, 0xFA#8),
      (.ldadpl, .stadpl, 0xFC#8), (.ldadpm, .stadpm, 0xFD#8), (.ldadph, .stadph, 0xFE#8),
      (.ldasp, .stasp, 0xFF#8)] : List (Instr × Instr × Byte)),
    ∀ s : State, s.latch.p9.getLsbD 3 = true →
      (∀ m, s.peek (1#1 ++ row.2.2) = m →
        exec row.1 s = .next { s with acc := m, zf := m == 0#4, sf := true, pc := s.pc + 2#13 }) ∧
      ∃ t, exec row.2.1 s = .next t ∧ StoredOnly (1#1 ++ row.2.2) s.acc s t ∧
        t = { s with ram := t.ram, stack := t.stack, sf := true, pc := s.pc + 2#13 }

/-! ### Control flow -/

/-- SBR: taken when SF = 1, inside the 64-byte page of the byte after it; SF becomes 1 either way (R200). -/
def Obligations.ShortBranch : Prop :=
  ∀ (s : State) (a : BitVec 6),
    Coded [0#2 ++ a] 1 (.sbr a) ∧
    exec (.sbr a) s = .next { s with
      sf := true,
      pc := if s.sf then BitVec.ofNat 13 (64 * ((s.pc + 1#13).toNat / 64) + a.toNat) else s.pc + 1#13 }

/-- LBR keeps bit 12 of the address after it, the spec's own choice (D11); SLBR reaches all 8K; SF becomes 1
either way (R201, R202). -/
def Obligations.LongBranches : Prop :=
  ∀ (s : State) (a : BitVec 12),
    (Coded [0xC#4 ++ a.extractLsb' 8 4, a.extractLsb' 0 8] 2 (.lbr a) ∧
      exec (.lbr a) s = .next { s with
        sf := true,
        pc := if s.sf then BitVec.ofNat 13 (4096 * ((s.pc + 2#13).toNat / 4096) + a.toNat) else s.pc + 2#13 }) ∧
    (Coded [0x55#8, 0xC#4 ++ a.extractLsb' 8 4, a.extractLsb' 0 8] 3 (.slbrHigh a) ∧
      exec (.slbrHigh a) s = .next { s with
        sf := true, pc := if s.sf then BitVec.ofNat 13 (0x1000 + a.toNat) else s.pc + 3#13 }) ∧
    (Coded [0x57#8, 0xC#4 ++ a.extractLsb' 8 4, a.extractLsb' 0 8] 3 (.slbrLow a) ∧
      exec (.slbrLow a) s = .next { s with
        sf := true, pc := if s.sf then BitVec.ofNat 13 a.toNat else s.pc + 3#13 })

/-- LCALL and SCALL push the address of the next instruction at the level SP names and go to their target;
no flag changes; the flag part of the level is a free value (D5, log 14; R41, R240, R241). -/
def Obligations.Calls : Prop :=
  ((∀ a : BitVec 11, Coded [0b01000#5 ++ a.extractLsb' 8 3, a.extractLsb' 0 8] 2 (.lcall a)) ∧
    ∀ n : Nibble, Coded [0xE#4 ++ n] 2 (.scall n)) ∧
  ∀ (s : State) (h : s.sp.toNat < 13),
    (∀ a : BitVec 11, ∃ t e, exec (.lcall a) s = .next t ∧ e.pc = s.pc + 2#13 ∧
      t = { s with
        stack := s.stack.set s.sp.toNat e h, sp := s.sp - 1#4, pc := BitVec.ofNat 13 a.toNat,
        draws := t.draws }) ∧
    ∀ n : Nibble, ∃ t e, exec (.scall n) s = .next t ∧ e.pc = s.pc + 1#13 ∧
      t = { s with
        stack := s.stack.set s.sp.toNat e h, sp := s.sp - 1#4,
        pc := BitVec.ofNat 13 (if n.toNat = 0 then 0x86 else 8 * n.toNat + 6), draws := t.draws }

/-- RET and RTI: SP is increased first, then the level it names is read; RET takes PC alone, RTI the flags
too and sets EI (R42, R242, R278, R333). -/
def Obligations.Returns : Prop :=
  (Coded [0x4F#8] 2 .ret ∧ Coded [0x4D#8] 2 .rti) ∧
  ∀ (s : State) (e : StackEntry), s.stack[(s.sp.toNat + 1) % 16]? = some e →
    exec .ret s = .next { s with sp := s.sp + 1#4, pc := e.pc } ∧
    exec .rti s = .next { s with
      sp := s.sp + 1#4, pc := e.pc, cf := e.cf, zf := e.zf, sf := e.sf, ei := true }

/-- A RET reached with SP and the stack as a call left them comes back to the instruction after the call,
with the flags it finds (R42, R242). -/
def Obligations.ReturnAfterCall : Prop :=
  ∀ (i : Instr) (s t u : State), isCall i = true → exec i s = .next t → u.sp = t.sp →
    u.stack = t.stack →
    exec .ret u = .next { u with sp := s.sp, pc := s.pc + BitVec.ofNat 13 i.length }

/-- SP = 13, 14, 15: calls stop with the named fault; so do RET and RTI where SP + 1 is one of them, and the
acceptance of an interrupt. The fault is the spec's own choice (D4; R43, R332). -/
def Obligations.StackRangeFaults : Prop :=
  (∀ (s : State) (i : Instr), isCall i = true → 13 ≤ s.sp.toNat →
    exec i s = .fault .stackLevelOutOfRange) ∧
  (∀ s : State, s.sp ∈ [12#4, 13#4, 14#4] →
    exec .ret s = .fault .stackLevelOutOfRange ∧ exec .rti s = .fault .stackLevelOutOfRange) ∧
  ∀ s : State, s.schedule = [] → s.mode ∈ [.normal, .slow] → 13 ≤ s.sp.toNat →
    (∃ r ∈ sourceTable, requested s r = true) → step s = .fault .stackLevelOutOfRange

/-- From SP = 12 thirteen nested calls fit, and the fourteenth faults (R43; D4). -/
def Obligations.ThirteenNestedCalls : Prop :=
  ∀ (s : State) (calls : List Instr), s.sp = 12#4 → (∀ i ∈ calls, isCall i = true) →
    (calls.length ≤ 13 → ∃ t, execAll calls s = .next t ∧
      t.sp.toNat = (12 + 16 - calls.length) % 16) ∧
    (calls.length = 14 → execAll calls s = .fault .stackLevelOutOfRange)

/-! ### Ports -/

/-- INA, INM, TFP, TTP and TFPL read the port; bits the spec leaves open are free values, the same for what
the instruction stores and for its flags (R87, R233, R234, R236, R251, R252). -/
def Obligations.InputsReadThePort : Prop :=
  (Coded [0x61#8] 2 .tfpl ∧ ∀ p : Nibble,
    Coded [0x6F#8, 0x4#4 ++ p] 2 (.ina p) ∧ Coded [0x6F#8, 0xC#4 ++ p] 2 (.inm p) ∧
    ∀ b : BitVec 2, Coded [0x6D#8, 0#2 ++ b ++ p] 2 (.tfp p b) ∧ Coded [0x6D#8, 2#2 ++ b ++ p] 2 (.ttp p b)) ∧
  (∀ (s : State) (p : Nibble), lowPort p.toNat →
    (∃ t v, ReadsAs p.toNat s v ∧ exec (.ina p) s = .next t ∧
      t = { s with acc := v, zf := v == 0#4, sf := v != 0#4, pc := s.pc + 2#13, draws := t.draws }) ∧
    (IsRam s.eaHl → ∃ t v, ReadsAs p.toNat s v ∧ exec (.inm p) s = .next t ∧
      StoredOnly s.eaHl v s t ∧
      t = { s with
        ram := t.ram, stack := t.stack, sf := v != 0#4, pc := s.pc + 2#13, draws := t.draws }) ∧
    ∀ b : BitVec 2, (∃ t v, ReadsAs p.toNat s v ∧ exec (.tfp p b) s = .next t ∧
        t = { s with sf := !v.getLsbD b.toNat, pc := s.pc + 2#13, draws := t.draws }) ∧
      ∃ t v, ReadsAs p.toNat s v ∧ exec (.ttp p b) s = .next t ∧
        t = { s with sf := v.getLsbD b.toNat, pc := s.pc + 2#13, draws := t.draws }) ∧
  ∀ s : State, ∃ t v, ReadsAs (4 + s.lr.toNat / 4) s v ∧ exec .tfpl s = .next t ∧
    t = { s with sf := !v.getLsbD (s.lr.toNat % 4), pc := s.pc + 1#13, draws := t.draws }

/-- OUT, OUTA and OUTM write the nibble to ports 0 to 11 and 14; on the higher ports OUTM does with the
RAM nibble what OUTA does with Acc (R88, R253, R254, R255). -/
def Obligations.OutputsWriteThePort : Prop :=
  ((∀ k p : Nibble, Coded [0x4A#8, k ++ p] 2 (.out k p)) ∧
    ∀ p : BitVec 5, Coded [0x6F#8, 0#3 ++ p] 2 (.outa p) ∧ Coded [0x6F#8, 4#3 ++ p] 2 (.outm p)) ∧
  (∀ (s : State) (k p : Nibble), lowPort p.toNat → ∃ u, WritesAs p.toNat k s u ∧
    exec (.out k p) s = .next { u with sf := true, pc := s.pc + 2#13 }) ∧
  (∀ (s : State) (p : BitVec 5), lowPort p.toNat → ∃ u, WritesAs p.toNat s.acc s u ∧
    exec (.outa p) s = .next { u with sf := true, pc := s.pc + 2#13 }) ∧
  (∀ (s : State) (p : BitVec 5), lowPort p.toNat → IsRam s.eaHl →
    ∃ u, WritesAs p.toNat (s.peek s.eaHl) s u ∧
      exec (.outm p) s = .next { u with sf := true, pc := s.pc + 2#13 }) ∧
  ∀ (s t : State) (p : BitVec 5), IsRam s.eaHl →
    exec (.outa p) { s with acc := s.peek s.eaHl } = .next t →
    exec (.outm p) s = .next { t with acc := s.acc }

/-- SEP, CLP, SEPL and CLPL change one bit of the latch, not of the pin, and write the nibble back, the spec's
own choice (D28; R88, R221, R223, R224, R227, R228). That SEP and CLP on ports 0 and 2 complete and change
nothing but SF is the spec's treatment U12 (log 11), that a bit without a pin keeps its latch value is U13
(log 10). -/
def Obligations.PortBitInstructions : Prop :=
  ((∀ (p : Nibble) (b : BitVec 2),
      Coded [0x6D#8, 1#2 ++ b ++ p] 2 (.sep p b) ∧ Coded [0x6D#8, 3#2 ++ b ++ p] 2 (.clp p b)) ∧
    Coded [0x62#8] 2 .sepl ∧ Coded [0x60#8] 2 .clpl) ∧
  (∀ (s : State) (p : Nibble) (b : BitVec 2), lowPort p.toNat →
    (∃ u v, WritesAs p.toNat v s u ∧
      (∀ c, c < 4 → v.getLsbD c = if c = b.toNat then true
        else if p.toNat = 0 ∨ p.toNat = 2 ∨ p.toNat = 14 then v.getLsbD c
        else (latchNibble s p.toNat).getLsbD c) ∧
      exec (.sep p b) s = .next { u with sf := true, pc := s.pc + 2#13 }) ∧
    ∃ u v, WritesAs p.toNat v s u ∧
      (∀ c, c < 4 → v.getLsbD c = if c = b.toNat then false
        else if p.toNat = 0 ∨ p.toNat = 2 ∨ p.toNat = 14 then v.getLsbD c
        else (latchNibble s p.toNat).getLsbD c) ∧
      exec (.clp p b) s = .next { u with sf := true, pc := s.pc + 2#13 }) ∧
  ∀ s : State,
    (∃ u v, WritesAs (4 + s.lr.toNat / 4) v s u ∧
      (∀ c, c < 4 → v.getLsbD c = if c = s.lr.toNat % 4 then true
        else (latchOf s (4 + s.lr.toNat / 4)).getLsbD c) ∧
      exec .sepl s = .next { u with sf := true, pc := s.pc + 1#13 }) ∧
    ∃ u v, WritesAs (4 + s.lr.toNat / 4) v s u ∧
      (∀ c, c < 4 → v.getLsbD c = if c = s.lr.toNat % 4 then false
        else (latchOf s (4 + s.lr.toNat / 4)).getLsbD c) ∧
      exec .clpl s = .next { u with sf := true, pc := s.pc + 1#13 }

/-- OUTA 16, 19 and 22 store the nibble and change the mode as R57, R58, R60 and R371 to R374 say. That P25
holds no reserved code is part of the invariant (StepKeepsTheInvariant). -/
def Obligations.ModeCommands : Prop :=
  ∀ (s : State) (v : Nibble), s.acc = v →
    (v.getLsbD 2 = true → exec (.outa 16#5) s = .next { s with
      cmd := { s.cmd with p16 := v }, mode := .stop, lcdPower := false, sf := true,
      pc := s.pc + 2#13 }) ∧
    (v ∈ [0x0#4, 0x8#4] → exec (.outa 16#5) s = .next { s with
      cmd := { s.cmd with p16 := v }, sf := true, pc := s.pc + 2#13 }) ∧
    (v.toNat / 4 = 1 → s.mode = .slow → exec (.outa 19#5) s = .next { s with
      cmd := { s.cmd with p19 := v }, mode := .idle, sf := true, pc := s.pc + 2#13 }) ∧
    (v.toNat / 4 = 0 → exec (.outa 19#5) s = .next { s with
      cmd := { s.cmd with p19 := v }, sf := true, pc := s.pc + 2#13 }) ∧
    (somTop s.opts v = true → s.mode = .normal → ¬ slowForbidden s.cmd → s.cmd.p25.toNat / 4 ≠ 2 →
      exec (.outa 22#5) s = .next { s with
        cmd := { s.cmd with p22 := v }, mode := .slow, sf := true, pc := s.pc + 2#13 }) ∧
    (somTop s.opts v = false → s.mode = .slow →
      exec (.outa 22#5) s = .next { s with
        cmd := { s.cmd with p22 := v }, mode := .normal, sf := true, pc := s.pc + 2#13 }) ∧
    (s.mode ≠ (if somTop s.opts v then .normal else .slow) →
      exec (.outa 22#5) s = .next { s with
        cmd := { s.cmd with p22 := v }, sf := true, pc := s.pc + 2#13 })

/-- OUTA 21, 25, 27, 28, 29 and 31 store the nibble and act on their unit: CWC = 0 clears the watch-dog
counter and returns to 1, LDC = 11 turns the LCD's power on, a start of the HTC loads its preset (R59, R61 to
R64, R362, R367, R368). That a write to P28 or P29 leaves TA and TB as they are, running or not, is the
model's choice (log 39). -/
def Obligations.DeviceCommands : Prop :=
  ∀ (s : State) (v : Nibble), s.acc = v →
    (s.opts.wdtEnable = true → ∀ n, n = (match s.opts.cwcBit with | .bit1 => 1 | .bit2 => 2 | .bit3 => 3) →
      ∃ w : Nibble, (∀ c, c < 4 → w.getLsbD c = if c = n then true else v.getLsbD c) ∧
        exec (.outa 21#5) s = .next { s with
          cmd := { s.cmd with p21 := w }, wdtCount := if v.getLsbD n then s.wdtCount else 0#4,
          sf := true, pc := s.pc + 2#13 }) ∧
    (s.opts.wdtEnable = false →
      exec (.outa 21#5) s = .next { s with sf := true, pc := s.pc + 2#13 }) ∧
    (v.toNat / 4 ≠ 2 → ¬ (s.mode = .slow ∧ v ∈ [0x4#4, 0x5#4, 0x6#4, 0xC#4]) →
      exec (.outa 25#5) s = .next { s with
        cmd := { s.cmd with p25 := v }, sf := true, pc := s.pc + 2#13 }) ∧
    (v.toNat / 4 ≠ 2 → exec (.outa 27#5) s = .next { s with
      cmd := { s.cmd with p27 := v }, lcdPower := s.lcdPower || decide (v.toNat / 4 = 3), sf := true,
      pc := s.pc + 2#13 }) ∧
    (¬ (s.mode = .slow ∧ v.toNat % 4 = 0) →
      exec (.outa 28#5) s = .next { s with
        cmd := { s.cmd with p28 := v }, sf := true, pc := s.pc + 2#13 }) ∧
    exec (.outa 29#5) s = .next { s with
      cmd := { s.cmd with p29 := v }, sf := true, pc := s.pc + 2#13 } ∧
    (¬ (s.mode = .slow ∧ 2 ≤ v.toNat % 4) →
      exec (.outa 31#5) s = .next { s with
        cmd := { s.cmd with p31 := v },
        htc := { s.htc with
          count := if s.cmd.p31.toNat / 4 = 0 ∧ v.toNat / 4 ≠ 0 then s.htc.preset else s.htc.count },
        sf := true, pc := s.pc + 2#13 })

/-- Ports with an empty row, and reserved codes, stop with their named faults; the faults are the spec's own
choice (D13, D21; R65, R371, R379). -/
def Obligations.PortFaults : Prop :=
  (∀ (s : State) (p : Nibble), p ∈ [12#4, 13#4, 15#4] → ∀ i : Instr,
    (i ∈ [.ina p, .inm p] ∨ (∃ b, i ∈ [.sep p b, .clp p b, .tfp p b, .ttp p b]) ∨ ∃ k, i = .out k p) →
    exec i s = .fault .unassignedPort) ∧
  (∀ (s : State) (p : BitVec 5),
    p ∈ [12#5, 13#5, 15#5, 17#5, 18#5, 20#5, 23#5, 24#5, 26#5, 30#5] →
    exec (.outa p) s = .fault .unassignedPort ∧
    (IsRam s.eaHl → exec (.outm p) s = .fault .unassignedPort)) ∧
  ∀ (s : State) (v : Nibble), s.acc = v →
    (v.getLsbD 2 = false → v.toNat % 4 ≠ 0 → exec (.outa 16#5) s = .fault .reservedCommand) ∧
    (2 ≤ v.toNat / 4 ∨ v.toNat / 4 = 1 ∧ s.mode ≠ .slow →
      exec (.outa 19#5) s = .fault .reservedCommand) ∧
    (somTop s.opts v = true → s.mode = .normal → slowForbidden s.cmd →
      exec (.outa 22#5) s = .fault .reservedCommand) ∧
    (v.toNat / 4 = 2 ∨ s.mode = .slow ∧ v ∈ [0x4#4, 0x5#4, 0x6#4, 0xC#4] →
      exec (.outa 25#5) s = .fault .reservedCommand) ∧
    (v.toNat / 4 = 2 → exec (.outa 27#5) s = .fault .reservedCommand) ∧
    (s.mode = .slow → v.toNat % 4 = 0 → exec (.outa 28#5) s = .fault .reservedCommand) ∧
    (s.mode = .slow → 2 ≤ v.toNat % 4 → exec (.outa 31#5) s = .fault .reservedCommand)

/-! ### Encoding and fetch -/

/-- Words written out from the encodings of R101 decode to their instructions, one or two of each family. -/
def Obligations.WrittenWordsDecode : Prop :=
  ∀ row ∈ ([([0x5A#8], .ldam), ([0x4E#8, 0x10#8], .ldhl 4#6), ([0x48#8, 0xF5#8], .std 0xF#4 5#4),
      ([0x50#8], .rlca), ([0x6E#8, 0x5D#8], .adda 0xD#4), ([0x6E#8, 0xE9#8], .andm 9#4),
      ([0x4C#8, 0x0C#8], .exhl 3#6), ([0x05#8], .sbr 5#6), ([0xC3#8, 0x45#8], .lbr 0x345#12),
      ([0x55#8, 0xC7#8, 0x77#8], .slbrHigh 0x777#12), ([0x57#8, 0xC0#8, 0x10#8], .slbrLow 0x010#12),
      ([0x4B#8, 0x73#8], .cmp 7#4 3#4), ([0x6D#8, 0xF9#8], .clp 9#4 3#2), ([0x6C#8, 0xEE#8], .clr 0xE#4 2#2),
      ([0x41#8, 0x23#8], .lcall 0x123#11), ([0xE3#8], .scall 3#4), ([0x6F#8, 0x1C#8], .outa 28#5),
      ([0x6F#8, 0x9F#8], .outm 31#5), ([0x63#8, 0x77#8], .eicil 0x37#6), ([0x4D#8], .rti), ([0x56#8], .nop),
      ([0x69#8, 0xFF#8], .stasp), ([0x6A#8, 0xF4#8], .ldatal), ([0x6A#8, 0xF7#8], .lda 0xF7#8)] :
        List (List Byte × Instr)),
    decodeBytes row.1 = .ok (row.2, [])

/-- Decoding what the encoder writes gives the instruction back, for every well-formed instruction with every
operand, whatever bytes follow. -/
def Obligations.DecodeOfEncode : Prop :=
  ∀ (i : Instr) (rest : List Byte), i.wf = true → decodeBytes (i.encode ++ rest) = .ok (i, rest)

/-- Three bytes decode to an instruction exactly when they begin with the encoding of a well-formed one, which
is that instruction; all other patterns are the unassigned ones of R107. -/
def Obligations.DecodeIsEncodeReversed : Prop :=
  (∀ (b0 b1 b2 : Byte) (i : Instr), decode b0 b1 b2 = .ok i ↔
    i.wf = true ∧ i.encode = [b0, b1, b2].take i.encode.length) ∧
  ∀ b0 b1 b2 : Byte, (∃ e, decode b0 b1 b2 = .error e) ↔
    b0 ∈ [0x54#8, 0x77#8, 0x7A#8] ∨
    (b0 = 0x6E#8 ∧ b1.toNat / 16 ∈ [0x0, 0x2, 0x8, 0xA]) ∨
    (b0 = 0x6F#8 ∧ b1.toNat / 16 ∈ [0x2, 0x3, 0x5, 0x6, 0x7, 0xA, 0xB, 0xD, 0xE, 0xF]) ∨
    (b0 = 0x63#8 ∧ b1.toNat / 64 = 0) ∨
    (b0 ∈ [0x4C#8, 0x4E#8] ∧ b1.toNat % 4 ≠ 0) ∨
    (b0 ∈ [0x55#8, 0x57#8] ∧ b1.toNat / 16 ≠ 0xC)

/-- Where the CPU is about to run and the bytes at PC begin with the encoding of a well-formed instruction, the
step is exec of that instruction on the same state; where an entry `cpu` of the schedule gives it the turn,
on the state without that entry; where the bytes decode to nothing, the step faults: that fault is the spec's
own choice (D3, log 29; R72, R107). -/
def Obligations.StepRunsTheDecodedInstruction : Prop :=
  (∀ (s : State) (i : Instr), s.aboutToRun → i.wf = true →
    i.encode = ([s.romByte s.pc, s.romByte (s.pc + 1#13), s.romByte (s.pc + 2#13)]).take i.encode.length →
    step s = exec i s ∧
    ∀ rest, step { s with schedule := .cpu :: rest } = exec i { s with schedule := rest }) ∧
  ∀ (s : State) (e : DecodeError), s.aboutToRun →
    decode (s.romByte s.pc) (s.romByte (s.pc + 1#13)) (s.romByte (s.pc + 2#13)) = .error e →
    step s = .fault .unassignedEncoding

/-- An instruction that is no branch, call or return and completes ends with PC at the next instruction, 1, 2
or 3 bytes on, modulo 2^13 (R25). -/
def Obligations.PcAdvancesByTheLength : Prop :=
  ∀ (i : Instr) (s t : State), exec i s = .next t →
    (match i with
     | .sbr _ => s.sf = false
     | .lbr _ => s.sf = false
     | .slbrHigh _ => s.sf = false
     | .slbrLow _ => s.sf = false
     | .lcall _ => False
     | .scall _ => False
     | .ret => False
     | .rti => False
     | _ => True) →
    t.pc = s.pc + BitVec.ofNat 13 i.encode.length

/-! ### Interrupts -/

/-- At a boundary the requested source of the highest priority is accepted, and nothing else happens: PC and
the flags are pushed, PC goes to the entry address, SF becomes 1, EI 0, the latch is cleared; CF, ZF and MASK
keep their values. That sampling is at boundaries, and CF and ZF, are the spec's own choice (D9, D29; R320,
R321, R324, R325, R330). -/
def Obligations.InterruptEntry : Prop :=
  (∀ (s : State) (higher lower : List (Nat × RomAddr × Option Nat)) (r : Nat × RomAddr × Option Nat)
      (h : s.sp.toNat < 13),
    sourceTable = higher ++ r :: lower → (∀ q ∈ higher, requested s q = false) → requested s r = true →
    s.schedule = [] → s.mode ∈ [.normal, .slow] →
    step s = .next { s with
      stack := s.stack.set s.sp.toNat { cf := s.cf, zf := s.zf, sf := s.sf, pc := s.pc } h,
      sp := s.sp - 1#4, pc := r.2.1, sf := true, ei := false, il := s.il &&& ~~~(1#6 <<< r.1) }) ∧
  ∀ s : State, s.pendingSource = none ↔ ∀ r ∈ sourceTable, requested s r = false

/-- After an acceptance, an RTI reached with SP and the stack as the entry left them restores PC, the flags
and SP, sets EI, and nothing else (R278, R330, R333). -/
def Obligations.RtiAfterInterrupt : Prop :=
  ∀ s t u : State, s.schedule = [] → s.mode ∈ [.normal, .slow] → s.pendingSource ≠ none →
    step s = .next t → u.sp = t.sp → u.stack = t.stack →
    exec .rti u = .next { u with pc := s.pc, cf := s.cf, zf := s.zf, sf := s.sf, sp := s.sp, ei := true }

/-- New levels on pins. In NORMAL and SLOW mode the transition INT_EDGE names on P8.2 (P8.0) sets the latch of
INT0 (INT1) whatever EI and MASK hold, a rising edge of P7.0 (P8.1) counts timer A (B) in event counter mode,
and on the other ports only the levels change; in IDLE and STOP an edge that the mask options make a release
goes to SLOW or NORMAL, INT0 and INT1 being requested only together with one, and nothing else changes (D19,
D22, log 26 and 27; R322, R352, R355, R375, R378). -/
def Obligations.PinEdges : Prop :=
  (∀ (s : State) (v : Nibble) (rest : List Event), s.mode ∈ [.normal, .slow] →
    s.schedule = .pins .p8 v :: rest →
    ∃ t, step s = .next t ∧
      t = { s with schedule := rest, pins := { s.pins with p8 := v }, tb := t.tb, il := t.il } ∧
      t.il.getLsbD 5 = (s.il.getLsbD 5 || transition s.opts.int0Edge s.pins.p8 v 2) ∧
      t.il.getLsbD 0 = (s.il.getLsbD 0 || transition s.opts.int1Edge s.pins.p8 v 0) ∧
      (∀ b ∈ [1, 3, 4], t.il.getLsbD b = s.il.getLsbD b) ∧
      if s.cmd.p29.toNat / 4 = 1 ∧ s.pins.p8.getLsbD 1 = false ∧ v.getLsbD 1 = true then
        if s.tb = 0xFFF#12 then t.tb = s.opts.timerAfterOverflow ∧ t.il.getLsbD 2 = true
        else t.tb = s.tb + 1#12 ∧ t.il.getLsbD 2 = s.il.getLsbD 2
      else t.tb = s.tb ∧ t.il.getLsbD 2 = s.il.getLsbD 2) ∧
  (∀ (s u : State) (v : Nibble) (rest : List Event), s.mode ∈ [.normal, .slow] →
    s.schedule = .pins .p7 v :: rest →
    u = { s with schedule := rest, pins := { s.pins with p7 := v } } →
    step s = .next (
      if s.cmd.p28.toNat / 4 = 1 ∧ s.pins.p7.getLsbD 0 = false ∧ v.getLsbD 0 = true then
        if s.ta = 0xFFF#12 then { u with ta := s.opts.timerAfterOverflow, il := s.il ||| 0b001000#6 }
        else { u with ta := s.ta + 1#12 }
      else u)) ∧
  (∀ (s : State) (p : PinPort) (v : Nibble) (rest : List Event), s.mode ∈ [.normal, .slow] →
    p ∉ [.p7, .p8] → s.schedule = .pins p v :: rest →
    ∃ t, step s = .next t ∧ t = { s with schedule := rest, pins := t.pins } ∧
      ∀ q, pinsOf t.pins q = if q = p then v else pinsOf s.pins q) ∧
  ∀ (s : State) (p : PinPort) (v : Nibble) (rest : List Event), s.mode ∈ [.idle, .stop] →
    s.schedule = .pins p v :: rest →
    ∃ t, step s = .next t ∧
      t = { s with schedule := rest, pins := t.pins, mode := t.mode, il := t.il } ∧
      (∀ q, pinsOf t.pins q = if q = p then v else pinsOf s.pins q) ∧
      (Releases s p v → t.mode = if s.mode = .idle then .slow else .normal) ∧
      (¬ Releases s p v → t.mode = s.mode) ∧
      (¬ Releases s p v ∨ p ≠ .p8 → t.il = s.il) ∧
      (Releases s p v → p = .p8 →
        t.il.getLsbD 5 = (s.il.getLsbD 5 || transition s.opts.int0Edge s.pins.p8 v 2) ∧
        t.il.getLsbD 0 = (s.il.getLsbD 0 || transition s.opts.int1Edge s.pins.p8 v 0) ∧
        ∀ b ∈ [1, 2, 3, 4], t.il.getLsbD b = s.il.getLsbD b)

/-! ### Devices -/

/-- A pulse counts timer A (B) in timer mode, and in pulse width measurement mode while the input is at the
active level; the count from FFFh requests TRGA (TRGB) and leaves the value of the parameter
TIMER_AFTER_OVERFLOW; in IDLE and STOP, and in the other modes of the timer, nothing happens (D19; R351, R353
to R356). A tick of the time base requests TBI when P25 selects a rate (R358). -/
def Obligations.TimersAndTimeBase : Prop :=
  ∀ (s u : State) (rest : List Event), u = { s with schedule := rest } →
    (s.schedule = .timerAPulse :: rest → step s = .next (
      if s.mode ∈ [.normal, .slow] ∧ (s.cmd.p28.toNat / 4 = 2 ∨
          s.cmd.p28.toNat / 4 = 3 ∧ s.pins.p7.getLsbD 0 = s.opts.pulseHigh) then
        if s.ta = 0xFFF#12 then { u with ta := s.opts.timerAfterOverflow, il := s.il ||| 0b001000#6 }
        else { u with ta := s.ta + 1#12 }
      else u)) ∧
    (s.schedule = .timerBPulse :: rest → step s = .next (
      if s.mode ∈ [.normal, .slow] ∧ (s.cmd.p29.toNat / 4 = 2 ∨
          s.cmd.p29.toNat / 4 = 3 ∧ s.pins.p8.getLsbD 1 = s.opts.pulseHigh) then
        if s.tb = 0xFFF#12 then { u with tb := s.opts.timerAfterOverflow, il := s.il ||| 0b000100#6 }
        else { u with tb := s.tb + 1#12 }
      else u)) ∧
    (s.schedule = .timeBaseTick :: rest → step s = .next (
      if s.mode ∈ [.normal, .slow] ∧ s.cmd.p25.toNat / 4 % 2 = 1 ∧
          ¬ (s.mode = .slow ∧ s.cmd.p25 ∈ [0x4#4, 0x5#4, 0x6#4, 0xC#4]) then
        { u with il := s.il ||| 0b000010#6 }
      else u))

/-- A clock counts the HTC in modes 01, 10 and, while P4.1 is at the active level, 11; the count from FFh
reloads the preset and requests HTCI, or in melody mode toggles the output instead (D19; R361 to R365). -/
def Obligations.HighSpeedCounter : Prop :=
  ∀ (s u : State) (rest : List Event), u = { s with schedule := rest } →
    s.schedule = .htcClock :: rest → step s = .next (
      if s.mode ∈ [.normal, .slow] ∧ (s.cmd.p31.toNat / 4 = 1 ∨ s.cmd.p31.toNat / 4 = 2 ∨
          s.cmd.p31.toNat / 4 = 3 ∧ s.pins.p4.getLsbD 1 = s.opts.pulseHigh) then
        if s.htc.count ≠ 0xFF#8 then { u with htc := { s.htc with count := s.htc.count + 1#8 } }
        else if s.cmd.p31.toNat / 4 = 2 then
          { u with htc := { s.htc with count := s.htc.preset, sound := !s.htc.sound } }
        else { u with htc := { s.htc with count := s.htc.preset }, il := s.il ||| 0b010000#6 }
      else u)

/-- In IDLE and STOP the CPU takes no step; a wake-up pin goes from IDLE to SLOW and from STOP to NORMAL with
WKS kept, the internal signal from IDLE to SLOW with WKS set when SIDR selects one; everything else is held
(D20; R370, R373 to R376, R378). -/
def Obligations.StopIdleAndWakeUp : Prop :=
  (∀ s : State, s.mode ∈ [.idle, .stop] → s.schedule = [] → step s = .next s) ∧
  ∀ (s u : State) (rest : List Event), u = { s with schedule := rest } →
    (s.schedule = .wakePin :: rest → wakeEnabled s.opts = true →
      (s.mode = .idle → step s = .next { u with mode := .slow }) ∧
      (s.mode = .stop → step s = .next { u with mode := .normal }) ∧
      (s.mode ∈ [.normal, .slow] → step s = .next u)) ∧
    (s.schedule = .wakePin :: rest → wakeEnabled s.opts = false → step s = .next u) ∧
    (s.schedule = .wakeTimer :: rest → step s = .next (
      if s.mode = .idle ∧ s.cmd.p19.toNat % 4 ≠ 0 then { u with mode := .slow, wks := true } else u))

/-- The watch-dog counts to 3 or 7 as bit 0 of P21 says and then resets the chip; without the mask option and
in STOP mode it does nothing (R367; that it resets when the counter reaches the detect time or is past it is
log 21). -/
def Obligations.WatchDog : Prop :=
  ∀ (s u : State) (rest : List Event), u = { s with schedule := rest } →
    (s.schedule = .wdtClock :: rest → step s = .next (
      if s.opts.wdtEnable = true ∧ s.mode ≠ .stop then
        if (if s.cmd.p21.getLsbD 0 then 7 else 3) ≤ (s.wdtCount.toNat + 1) % 16 then resetChip u
        else { u with wdtCount := s.wdtCount + 1#4 }
      else u)) ∧
    (s.schedule = .wdtTimeUp :: rest → step s = .next (
      if s.opts.wdtEnable = true ∧ s.mode ≠ .stop then resetChip u else u))

/-- The LCD: after any step that takes its power away the machine is in STOP mode, or a reset happened (R368,
R374, R394); a dot is lit with the power on and LDC = 11, not in STOP, from the nibble at 020h + SEG, at a
common the duty uses, and on SEG30 and SEG31 only where P3_01_OPTION makes them segment pins (R5); the bank is
the spec's own choice (D30), which writes change the duty is the model's (log 38). With LDC = 01 the SEG pins
output the same data and no dot is lit (R368; that nothing is output with the power off is the model's reading,
log 23), and nothing is output from a STOP on until a write of LDC = 11 turns the power on again. The sound
pin is low unless the HTC is in melody mode (R364); that it is low in IDLE is the model's choice (log 40). -/
def Obligations.LcdAndSound : Prop :=
  (∀ s t : State, step s = .next t → s.lcdPower = true → t.lcdPower = false →
    t.mode = .stop ∨ ∃ e rest, s.schedule = e :: rest ∧ e ∈ [.resetPin, .wdtClock, .wdtTimeUp]) ∧
  (∀ (s : State) (seg : Fin 32) (com : Fin 4), s.lcdDot seg com = true ↔
    s.lcdPower = true ∧ s.cmd.p27.toNat / 4 = 3 ∧ s.segmentData seg com = true) ∧
  (∀ (s : State) (seg : Fin 32) (com : Fin 4), s.segmentData seg com = true ↔
    s.lcdPower = true ∧ (s.cmd.p27.toNat / 4 = 1 ∨ s.cmd.p27.toNat / 4 = 3) ∧ s.mode ≠ .stop ∧
      (seg.val < 30 ∨ s.opts.p3Segments = true) ∧ com.val + s.cmd.p27.toNat % 4 < 4 ∧
      (s.peek (BitVec.ofNat 9 (0x20 + seg.val))).getLsbD com.val = true) ∧
  (∀ s t : State, step s = .next t → s.lcdPower = false → t.lcdPower = true → t.cmd.p27.toNat / 4 = 3) ∧
  ∀ s : State, s.soundPin = true ↔
    s.mode ∈ [.normal, .slow] ∧ s.cmd.p31.toNat / 4 = 2 ∧ s.htc.sound = true

/-- What each action of an agent other than the CPU, short of a reset, may change: INT0 and INT1 their latch,
in NORMAL and SLOW mode; the oscillator LFS; pins the levels of their port, an event counter, IL and the
mode; a pulse its counter and its latch; the HTC's clock the count, the output and its latch; the time base its
latch; a wake-up the mode, and by the internal signal WKS. Nothing else: no memory, no stack level, no register
or flag of the CPU, no port latch, no command register. That each is one atomic action at a boundary is the
spec's own choice (D14; R56, R92, R322, R378), that it is an entry of the schedule the model's (log 7). -/
def Obligations.DevicesLeaveTheCpuAlone : Prop :=
  ∀ (s u : State) (e : Event) (rest : List Event), s.schedule = e :: rest → u = { s with schedule := rest } →
    e ∉ [.cpu, .resetPin, .wdtClock, .wdtTimeUp] → ∃ t, step s = .next t ∧
    match e with
    | .int0 => t = if s.mode ∈ [.normal, .slow] then { u with il := s.il ||| 0b100000#6 } else u
    | .int1 => t = if s.mode ∈ [.normal, .slow] then { u with il := s.il ||| 0b000001#6 } else u
    | .oscillator stable => t = { u with lfs := stable }
    | .pins p v =>
      t = { u with pins := t.pins, ta := t.ta, tb := t.tb, il := t.il, mode := t.mode } ∧
      (∀ q, pinsOf t.pins q = if q = p then v else pinsOf s.pins q) ∧ s.il &&& t.il = s.il ∧
      (p ≠ .p7 → t.ta = s.ta) ∧ (p ≠ .p8 → t.tb = s.tb) ∧ (p ∉ [.p7, .p8] → t.il = s.il)
    | .timerAPulse => t = { u with ta := t.ta, il := t.il } ∧ t.il ∈ [s.il, s.il ||| 0b001000#6]
    | .timerBPulse => t = { u with tb := t.tb, il := t.il } ∧ t.il ∈ [s.il, s.il ||| 0b000100#6]
    | .htcClock => t = { u with htc := { t.htc with preset := s.htc.preset }, il := t.il } ∧
        t.il ∈ [s.il, s.il ||| 0b010000#6]
    | .timeBaseTick => t = { u with il := t.il } ∧ t.il ∈ [s.il, s.il ||| 0b000010#6]
    | .wakePin => t = { u with mode := t.mode }
    | .wakeTimer => t = { u with mode := t.mode, wks := t.wks } ∧ (s.wks = true → t.wks = true)
    | _ => True

/-! ### Reset -/

/-- What the reset table lists, in the machine after reset (R67). -/
def Obligations.ResetTable : Prop :=
  State.reset.pc = 0x0000#13 ∧ State.reset.sf = true ∧ State.reset.ei = false ∧
  State.reset.mask = 0#4 ∧ State.reset.il = 0#6 ∧ State.reset.htc.preset = 0#8 ∧
  State.reset.wks = false ∧ State.reset.lfs = false ∧ State.reset.mode = .normal ∧
  State.reset.cmd = ⟨0#4, 0#4, 0#4, 0#4, 0#4, 0#4, 0#4, 0#4, 0#4⟩ ∧
  ∀ p ∈ [1, 3, 4, 5, 6, 7, 8], latchOf State.reset p = 0xF#4

/-- The reset event from any state, in any mode: the values R381 lists, ROM and options kept, whatever the
unlisted registers become; port 9 as the parameter P9_RESET says where it is given (R380, R381, R383). -/
def Obligations.ResetEvent : Prop :=
  ∀ (s : State) (rest : List Event), s.schedule = .resetPin :: rest →
    ∃ t, step s = .next t ∧ t.schedule = rest ∧ t.rom = s.rom ∧ t.opts = s.opts ∧ t.pins = s.pins ∧
      t.pc = 0x0000#13 ∧ t.sf = true ∧ t.ei = false ∧ t.mask = 0#4 ∧ t.il = 0#6 ∧
      t.htc.preset = 0#8 ∧ t.wks = false ∧ t.lfs = false ∧ t.mode = .normal ∧
      t.mode.highClock = true ∧ t.mode.lowClock = true ∧
      t.cmd = ⟨0#4, 0#4, 0#4, 0#4, 0#4, 0#4, 0#4, 0#4, 0#4⟩ ∧
      (∀ p ∈ [3, 4, 5, 6, 7, 8], latchOf t p = 0xF#4) ∧
      (∀ v, s.opts.p9Reset = some v → t.latch.p9 = v) ∧
      ∀ b, b < 2 → t.latch.p1.getLsbD b = s.opts.p1InitialHigh

/-! ### Rules of the whole machine -/

/-- The kept, constant and paired cells of the columns `C Z S`: what `-` keeps, what `0` and `1` set, and, where
two columns of a row name the same carry or the same zero, how SF goes with CF and with ZF. The bullets of
ADDAM and DECA are read as `-`, the spec's own choice (D31; R28, R29, R30, R33). -/
def Obligations.FlagColumnsHold : Prop :=
  ∀ (i : Instr) (s t : State), exec i s = .next t → s.opts.bulletCWritesCF = false →
    ((flagColumns i).c = .keep → t.cf = s.cf) ∧ ((flagColumns i).c = .zero → t.cf = false) ∧
    ((flagColumns i).c = .one → t.cf = true) ∧ ((flagColumns i).z = .keep → t.zf = s.zf) ∧
    ((flagColumns i).s = .keep → t.sf = s.sf) ∧ ((flagColumns i).s = .one → t.sf = true) ∧
    ((flagColumns i).c = .carry → (flagColumns i).s = .carry → t.sf = t.cf) ∧
    ((flagColumns i).c = .carry → (flagColumns i).s = .noCarry → t.sf = !t.cf) ∧
    ((flagColumns i).z = .isZero → (flagColumns i).s = .nonZero → t.sf = !t.zf)

/-- Only EXAE touches MASK; only EICIL, DICIL and RTI write EI; no instruction sets a latch of IL, and only
CIL, DICIL and EICIL clear one (R45, R46, R47). -/
def Obligations.InterruptStateWriters : Prop :=
  ∀ (i : Instr) (s t : State), exec i s = .next t →
    (t.mask ≠ s.mask → i = .exae) ∧
    (t.ei ≠ s.ei → i = .rti ∨ ∃ r, i = .eicil r ∨ i = .dicil r) ∧
    (∀ b, s.il.getLsbD b = false → t.il.getLsbD b = false) ∧
    (t.il ≠ s.il → ∃ r, i = .cil r ∨ i = .dicil r ∨ i = .eicil r)

/-- Who writes SP, DP, TA, TB and the stack: SP the calls, the returns and STASP; DP LDAXI and STADPx; TA, TB
STATAx, STATBx; a stack level the calls, and, unless the parameter STACK_RAM_MAP keeps the levels apart from RAM, stores
(R35, R37, R38, R41, R44, R244). -/
def Obligations.SpecialRegisterWriters : Prop :=
  ∀ (i : Instr) (s t : State), exec i s = .next t → i.wf = true →
    (t.sp ≠ s.sp → isCall i = true ∨ i ∈ [.ret, .rti, .stasp]) ∧
    (t.dp ≠ s.dp → i ∈ [.ldaxi, .stadpl, .stadpm, .stadph]) ∧
    (t.ta ≠ s.ta → i ∈ [.statal, .statam, .statah]) ∧
    (t.tb ≠ s.tb → i ∈ [.statbl, .statbm, .statbh]) ∧
    (s.opts.stackMap = some [] → t.stack ≠ s.stack → isCall i = true)

/-- From each mode the machine goes only where the mode sections say: NORMAL to SLOW and STOP, SLOW to NORMAL,
STOP and IDLE, IDLE to SLOW, STOP to NORMAL; a reset goes to NORMAL (R371 to R374, R380). -/
def Obligations.ModeTransitions : Prop :=
  ∀ s t : State, step s = .next t → t.mode ≠ s.mode →
    (s.mode = .normal ∧ t.mode ∈ [.slow, .stop]) ∨
    (s.mode = .slow ∧ t.mode ∈ [.normal, .stop, .idle]) ∨
    (s.mode = .idle ∧ t.mode = .slow) ∨ (s.mode = .stop ∧ t.mode = .normal) ∨
    (t.mode = .normal ∧ ∃ e rest, s.schedule = e :: rest ∧ e ∈ [.resetPin, .wdtClock, .wdtTimeUp])

/-- No step changes the ROM or the options of the chip, and no step is refused: every instruction has its
meaning (R72, R310). -/
def Obligations.RomIsNeverWritten : Prop :=
  ∀ s : State, (∀ r, step s ≠ .refused r) ∧
    ∀ t, step s = .next t → t.rom = s.rom ∧ t.opts = s.opts

/-- Where a run has ended (a taken branch to itself with EI = 0, or STOP with no wake-up enabled), the machine
stays as it is until an agent other than the CPU acts (R399; D24). -/
def Obligations.EndedRunsStay : Prop :=
  ∀ s : State, s.runEnded = true → s.schedule = [] → step s = .next s

/-- The machine after reset meets the invariant. -/
def Obligations.ResetMeetsTheInvariant : Prop := State.reset.Inv

/-- Every step keeps the invariant: both memories stay canonical, with RAM nibbles and ROM bytes at addresses
that exist; no command register comes to hold a reserved code; the mode agrees with the registers that lead
to it; latch bits without a pin stay 1 (R52, R68, R71, R74, R373, R374, R379; notes/assumptions/3.md, 10.md). -/
def Obligations.StepKeepsTheInvariant : Prop :=
  ∀ s t : State, s.Inv → step s = .next t → t.Inv
end

