-- ==== Sys2Proof/Laws/State.lean ====
section
/-! SUPPORT. One lemma per field per update of State, so that no proof unfolds a record update. -/

namespace Sys2Proof.Machine

open Sys2Proof.Config

section
variable (s : State) (v : Nibble)
@[simp] theorem State.setAcc_acc : (s.setAcc v).acc = v := rfl
@[simp] theorem State.setAcc_hr : (s.setAcc v).hr = s.hr := rfl
@[simp] theorem State.setAcc_lr : (s.setAcc v).lr = s.lr := rfl
@[simp] theorem State.setAcc_pc : (s.setAcc v).pc = s.pc := rfl
@[simp] theorem State.setAcc_cf : (s.setAcc v).cf = s.cf := rfl
@[simp] theorem State.setAcc_zf : (s.setAcc v).zf = s.zf := rfl
@[simp] theorem State.setAcc_sf : (s.setAcc v).sf = s.sf := rfl
@[simp] theorem State.setAcc_sp : (s.setAcc v).sp = s.sp := rfl
@[simp] theorem State.setAcc_dp : (s.setAcc v).dp = s.dp := rfl
@[simp] theorem State.setAcc_ta : (s.setAcc v).ta = s.ta := rfl
@[simp] theorem State.setAcc_tb : (s.setAcc v).tb = s.tb := rfl
@[simp] theorem State.setAcc_stack : (s.setAcc v).stack = s.stack := rfl
@[simp] theorem State.setAcc_ei : (s.setAcc v).ei = s.ei := rfl
@[simp] theorem State.setAcc_mask : (s.setAcc v).mask = s.mask := rfl
@[simp] theorem State.setAcc_il : (s.setAcc v).il = s.il := rfl
@[simp] theorem State.setAcc_ram : (s.setAcc v).ram = s.ram := rfl
@[simp] theorem State.setAcc_rom : (s.setAcc v).rom = s.rom := rfl
@[simp] theorem State.setAcc_latch : (s.setAcc v).latch = s.latch := rfl
@[simp] theorem State.setAcc_cmd : (s.setAcc v).cmd = s.cmd := rfl
@[simp] theorem State.setAcc_htc : (s.setAcc v).htc = s.htc := rfl
@[simp] theorem State.setAcc_mode : (s.setAcc v).mode = s.mode := rfl
@[simp] theorem State.setAcc_wks : (s.setAcc v).wks = s.wks := rfl
@[simp] theorem State.setAcc_lfs : (s.setAcc v).lfs = s.lfs := rfl
@[simp] theorem State.setAcc_lcdPower : (s.setAcc v).lcdPower = s.lcdPower := rfl
@[simp] theorem State.setAcc_wdtCount : (s.setAcc v).wdtCount = s.wdtCount := rfl
@[simp] theorem State.setAcc_pins : (s.setAcc v).pins = s.pins := rfl
@[simp] theorem State.setAcc_schedule : (s.setAcc v).schedule = s.schedule := rfl
@[simp] theorem State.setAcc_opts : (s.setAcc v).opts = s.opts := rfl
@[simp] theorem State.setAcc_draws : (s.setAcc v).draws = s.draws := rfl
end

section
variable (s : State) (v : Nibble)
@[simp] theorem State.setHr_acc : (s.setHr v).acc = s.acc := rfl
@[simp] theorem State.setHr_hr : (s.setHr v).hr = v := rfl
@[simp] theorem State.setHr_lr : (s.setHr v).lr = s.lr := rfl
@[simp] theorem State.setHr_pc : (s.setHr v).pc = s.pc := rfl
@[simp] theorem State.setHr_cf : (s.setHr v).cf = s.cf := rfl
@[simp] theorem State.setHr_zf : (s.setHr v).zf = s.zf := rfl
@[simp] theorem State.setHr_sf : (s.setHr v).sf = s.sf := rfl
@[simp] theorem State.setHr_sp : (s.setHr v).sp = s.sp := rfl
@[simp] theorem State.setHr_dp : (s.setHr v).dp = s.dp := rfl
@[simp] theorem State.setHr_ta : (s.setHr v).ta = s.ta := rfl
@[simp] theorem State.setHr_tb : (s.setHr v).tb = s.tb := rfl
@[simp] theorem State.setHr_stack : (s.setHr v).stack = s.stack := rfl
@[simp] theorem State.setHr_ei : (s.setHr v).ei = s.ei := rfl
@[simp] theorem State.setHr_mask : (s.setHr v).mask = s.mask := rfl
@[simp] theorem State.setHr_il : (s.setHr v).il = s.il := rfl
@[simp] theorem State.setHr_ram : (s.setHr v).ram = s.ram := rfl
@[simp] theorem State.setHr_rom : (s.setHr v).rom = s.rom := rfl
@[simp] theorem State.setHr_latch : (s.setHr v).latch = s.latch := rfl
@[simp] theorem State.setHr_cmd : (s.setHr v).cmd = s.cmd := rfl
@[simp] theorem State.setHr_htc : (s.setHr v).htc = s.htc := rfl
@[simp] theorem State.setHr_mode : (s.setHr v).mode = s.mode := rfl
@[simp] theorem State.setHr_wks : (s.setHr v).wks = s.wks := rfl
@[simp] theorem State.setHr_lfs : (s.setHr v).lfs = s.lfs := rfl
@[simp] theorem State.setHr_lcdPower : (s.setHr v).lcdPower = s.lcdPower := rfl
@[simp] theorem State.setHr_wdtCount : (s.setHr v).wdtCount = s.wdtCount := rfl
@[simp] theorem State.setHr_pins : (s.setHr v).pins = s.pins := rfl
@[simp] theorem State.setHr_schedule : (s.setHr v).schedule = s.schedule := rfl
@[simp] theorem State.setHr_opts : (s.setHr v).opts = s.opts := rfl
@[simp] theorem State.setHr_draws : (s.setHr v).draws = s.draws := rfl
end

section
variable (s : State) (v : Nibble)
@[simp] theorem State.setLr_acc : (s.setLr v).acc = s.acc := rfl
@[simp] theorem State.setLr_hr : (s.setLr v).hr = s.hr := rfl
@[simp] theorem State.setLr_lr : (s.setLr v).lr = v := rfl
@[simp] theorem State.setLr_pc : (s.setLr v).pc = s.pc := rfl
@[simp] theorem State.setLr_cf : (s.setLr v).cf = s.cf := rfl
@[simp] theorem State.setLr_zf : (s.setLr v).zf = s.zf := rfl
@[simp] theorem State.setLr_sf : (s.setLr v).sf = s.sf := rfl
@[simp] theorem State.setLr_sp : (s.setLr v).sp = s.sp := rfl
@[simp] theorem State.setLr_dp : (s.setLr v).dp = s.dp := rfl
@[simp] theorem State.setLr_ta : (s.setLr v).ta = s.ta := rfl
@[simp] theorem State.setLr_tb : (s.setLr v).tb = s.tb := rfl
@[simp] theorem State.setLr_stack : (s.setLr v).stack = s.stack := rfl
@[simp] theorem State.setLr_ei : (s.setLr v).ei = s.ei := rfl
@[simp] theorem State.setLr_mask : (s.setLr v).mask = s.mask := rfl
@[simp] theorem State.setLr_il : (s.setLr v).il = s.il := rfl
@[simp] theorem State.setLr_ram : (s.setLr v).ram = s.ram := rfl
@[simp] theorem State.setLr_rom : (s.setLr v).rom = s.rom := rfl
@[simp] theorem State.setLr_latch : (s.setLr v).latch = s.latch := rfl
@[simp] theorem State.setLr_cmd : (s.setLr v).cmd = s.cmd := rfl
@[simp] theorem State.setLr_htc : (s.setLr v).htc = s.htc := rfl
@[simp] theorem State.setLr_mode : (s.setLr v).mode = s.mode := rfl
@[simp] theorem State.setLr_wks : (s.setLr v).wks = s.wks := rfl
@[simp] theorem State.setLr_lfs : (s.setLr v).lfs = s.lfs := rfl
@[simp] theorem State.setLr_lcdPower : (s.setLr v).lcdPower = s.lcdPower := rfl
@[simp] theorem State.setLr_wdtCount : (s.setLr v).wdtCount = s.wdtCount := rfl
@[simp] theorem State.setLr_pins : (s.setLr v).pins = s.pins := rfl
@[simp] theorem State.setLr_schedule : (s.setLr v).schedule = s.schedule := rfl
@[simp] theorem State.setLr_opts : (s.setLr v).opts = s.opts := rfl
@[simp] theorem State.setLr_draws : (s.setLr v).draws = s.draws := rfl
end

section
variable (s : State) (v : RomAddr)
@[simp] theorem State.setPc_acc : (s.setPc v).acc = s.acc := rfl
@[simp] theorem State.setPc_hr : (s.setPc v).hr = s.hr := rfl
@[simp] theorem State.setPc_lr : (s.setPc v).lr = s.lr := rfl
@[simp] theorem State.setPc_pc : (s.setPc v).pc = v := rfl
@[simp] theorem State.setPc_cf : (s.setPc v).cf = s.cf := rfl
@[simp] theorem State.setPc_zf : (s.setPc v).zf = s.zf := rfl
@[simp] theorem State.setPc_sf : (s.setPc v).sf = s.sf := rfl
@[simp] theorem State.setPc_sp : (s.setPc v).sp = s.sp := rfl
@[simp] theorem State.setPc_dp : (s.setPc v).dp = s.dp := rfl
@[simp] theorem State.setPc_ta : (s.setPc v).ta = s.ta := rfl
@[simp] theorem State.setPc_tb : (s.setPc v).tb = s.tb := rfl
@[simp] theorem State.setPc_stack : (s.setPc v).stack = s.stack := rfl
@[simp] theorem State.setPc_ei : (s.setPc v).ei = s.ei := rfl
@[simp] theorem State.setPc_mask : (s.setPc v).mask = s.mask := rfl
@[simp] theorem State.setPc_il : (s.setPc v).il = s.il := rfl
@[simp] theorem State.setPc_ram : (s.setPc v).ram = s.ram := rfl
@[simp] theorem State.setPc_rom : (s.setPc v).rom = s.rom := rfl
@[simp] theorem State.setPc_latch : (s.setPc v).latch = s.latch := rfl
@[simp] theorem State.setPc_cmd : (s.setPc v).cmd = s.cmd := rfl
@[simp] theorem State.setPc_htc : (s.setPc v).htc = s.htc := rfl
@[simp] theorem State.setPc_mode : (s.setPc v).mode = s.mode := rfl
@[simp] theorem State.setPc_wks : (s.setPc v).wks = s.wks := rfl
@[simp] theorem State.setPc_lfs : (s.setPc v).lfs = s.lfs := rfl
@[simp] theorem State.setPc_lcdPower : (s.setPc v).lcdPower = s.lcdPower := rfl
@[simp] theorem State.setPc_wdtCount : (s.setPc v).wdtCount = s.wdtCount := rfl
@[simp] theorem State.setPc_pins : (s.setPc v).pins = s.pins := rfl
@[simp] theorem State.setPc_schedule : (s.setPc v).schedule = s.schedule := rfl
@[simp] theorem State.setPc_opts : (s.setPc v).opts = s.opts := rfl
@[simp] theorem State.setPc_draws : (s.setPc v).draws = s.draws := rfl
end

section
variable (s : State) (v : Bool)
@[simp] theorem State.setCf_acc : (s.setCf v).acc = s.acc := rfl
@[simp] theorem State.setCf_hr : (s.setCf v).hr = s.hr := rfl
@[simp] theorem State.setCf_lr : (s.setCf v).lr = s.lr := rfl
@[simp] theorem State.setCf_pc : (s.setCf v).pc = s.pc := rfl
@[simp] theorem State.setCf_cf : (s.setCf v).cf = v := rfl
@[simp] theorem State.setCf_zf : (s.setCf v).zf = s.zf := rfl
@[simp] theorem State.setCf_sf : (s.setCf v).sf = s.sf := rfl
@[simp] theorem State.setCf_sp : (s.setCf v).sp = s.sp := rfl
@[simp] theorem State.setCf_dp : (s.setCf v).dp = s.dp := rfl
@[simp] theorem State.setCf_ta : (s.setCf v).ta = s.ta := rfl
@[simp] theorem State.setCf_tb : (s.setCf v).tb = s.tb := rfl
@[simp] theorem State.setCf_stack : (s.setCf v).stack = s.stack := rfl
@[simp] theorem State.setCf_ei : (s.setCf v).ei = s.ei := rfl
@[simp] theorem State.setCf_mask : (s.setCf v).mask = s.mask := rfl
@[simp] theorem State.setCf_il : (s.setCf v).il = s.il := rfl
@[simp] theorem State.setCf_ram : (s.setCf v).ram = s.ram := rfl
@[simp] theorem State.setCf_rom : (s.setCf v).rom = s.rom := rfl
@[simp] theorem State.setCf_latch : (s.setCf v).latch = s.latch := rfl
@[simp] theorem State.setCf_cmd : (s.setCf v).cmd = s.cmd := rfl
@[simp] theorem State.setCf_htc : (s.setCf v).htc = s.htc := rfl
@[simp] theorem State.setCf_mode : (s.setCf v).mode = s.mode := rfl
@[simp] theorem State.setCf_wks : (s.setCf v).wks = s.wks := rfl
@[simp] theorem State.setCf_lfs : (s.setCf v).lfs = s.lfs := rfl
@[simp] theorem State.setCf_lcdPower : (s.setCf v).lcdPower = s.lcdPower := rfl
@[simp] theorem State.setCf_wdtCount : (s.setCf v).wdtCount = s.wdtCount := rfl
@[simp] theorem State.setCf_pins : (s.setCf v).pins = s.pins := rfl
@[simp] theorem State.setCf_schedule : (s.setCf v).schedule = s.schedule := rfl
@[simp] theorem State.setCf_opts : (s.setCf v).opts = s.opts := rfl
@[simp] theorem State.setCf_draws : (s.setCf v).draws = s.draws := rfl
end

section
variable (s : State) (v : Bool)
@[simp] theorem State.setZf_acc : (s.setZf v).acc = s.acc := rfl
@[simp] theorem State.setZf_hr : (s.setZf v).hr = s.hr := rfl
@[simp] theorem State.setZf_lr : (s.setZf v).lr = s.lr := rfl
@[simp] theorem State.setZf_pc : (s.setZf v).pc = s.pc := rfl
@[simp] theorem State.setZf_cf : (s.setZf v).cf = s.cf := rfl
@[simp] theorem State.setZf_zf : (s.setZf v).zf = v := rfl
@[simp] theorem State.setZf_sf : (s.setZf v).sf = s.sf := rfl
@[simp] theorem State.setZf_sp : (s.setZf v).sp = s.sp := rfl
@[simp] theorem State.setZf_dp : (s.setZf v).dp = s.dp := rfl
@[simp] theorem State.setZf_ta : (s.setZf v).ta = s.ta := rfl
@[simp] theorem State.setZf_tb : (s.setZf v).tb = s.tb := rfl
@[simp] theorem State.setZf_stack : (s.setZf v).stack = s.stack := rfl
@[simp] theorem State.setZf_ei : (s.setZf v).ei = s.ei := rfl
@[simp] theorem State.setZf_mask : (s.setZf v).mask = s.mask := rfl
@[simp] theorem State.setZf_il : (s.setZf v).il = s.il := rfl
@[simp] theorem State.setZf_ram : (s.setZf v).ram = s.ram := rfl
@[simp] theorem State.setZf_rom : (s.setZf v).rom = s.rom := rfl
@[simp] theorem State.setZf_latch : (s.setZf v).latch = s.latch := rfl
@[simp] theorem State.setZf_cmd : (s.setZf v).cmd = s.cmd := rfl
@[simp] theorem State.setZf_htc : (s.setZf v).htc = s.htc := rfl
@[simp] theorem State.setZf_mode : (s.setZf v).mode = s.mode := rfl
@[simp] theorem State.setZf_wks : (s.setZf v).wks = s.wks := rfl
@[simp] theorem State.setZf_lfs : (s.setZf v).lfs = s.lfs := rfl
@[simp] theorem State.setZf_lcdPower : (s.setZf v).lcdPower = s.lcdPower := rfl
@[simp] theorem State.setZf_wdtCount : (s.setZf v).wdtCount = s.wdtCount := rfl
@[simp] theorem State.setZf_pins : (s.setZf v).pins = s.pins := rfl
@[simp] theorem State.setZf_schedule : (s.setZf v).schedule = s.schedule := rfl
@[simp] theorem State.setZf_opts : (s.setZf v).opts = s.opts := rfl
@[simp] theorem State.setZf_draws : (s.setZf v).draws = s.draws := rfl
end

section
variable (s : State) (v : Bool)
@[simp] theorem State.setSf_acc : (s.setSf v).acc = s.acc := rfl
@[simp] theorem State.setSf_hr : (s.setSf v).hr = s.hr := rfl
@[simp] theorem State.setSf_lr : (s.setSf v).lr = s.lr := rfl
@[simp] theorem State.setSf_pc : (s.setSf v).pc = s.pc := rfl
@[simp] theorem State.setSf_cf : (s.setSf v).cf = s.cf := rfl
@[simp] theorem State.setSf_zf : (s.setSf v).zf = s.zf := rfl
@[simp] theorem State.setSf_sf : (s.setSf v).sf = v := rfl
@[simp] theorem State.setSf_sp : (s.setSf v).sp = s.sp := rfl
@[simp] theorem State.setSf_dp : (s.setSf v).dp = s.dp := rfl
@[simp] theorem State.setSf_ta : (s.setSf v).ta = s.ta := rfl
@[simp] theorem State.setSf_tb : (s.setSf v).tb = s.tb := rfl
@[simp] theorem State.setSf_stack : (s.setSf v).stack = s.stack := rfl
@[simp] theorem State.setSf_ei : (s.setSf v).ei = s.ei := rfl
@[simp] theorem State.setSf_mask : (s.setSf v).mask = s.mask := rfl
@[simp] theorem State.setSf_il : (s.setSf v).il = s.il := rfl
@[simp] theorem State.setSf_ram : (s.setSf v).ram = s.ram := rfl
@[simp] theorem State.setSf_rom : (s.setSf v).rom = s.rom := rfl
@[simp] theorem State.setSf_latch : (s.setSf v).latch = s.latch := rfl
@[simp] theorem State.setSf_cmd : (s.setSf v).cmd = s.cmd := rfl
@[simp] theorem State.setSf_htc : (s.setSf v).htc = s.htc := rfl
@[simp] theorem State.setSf_mode : (s.setSf v).mode = s.mode := rfl
@[simp] theorem State.setSf_wks : (s.setSf v).wks = s.wks := rfl
@[simp] theorem State.setSf_lfs : (s.setSf v).lfs = s.lfs := rfl
@[simp] theorem State.setSf_lcdPower : (s.setSf v).lcdPower = s.lcdPower := rfl
@[simp] theorem State.setSf_wdtCount : (s.setSf v).wdtCount = s.wdtCount := rfl
@[simp] theorem State.setSf_pins : (s.setSf v).pins = s.pins := rfl
@[simp] theorem State.setSf_schedule : (s.setSf v).schedule = s.schedule := rfl
@[simp] theorem State.setSf_opts : (s.setSf v).opts = s.opts := rfl
@[simp] theorem State.setSf_draws : (s.setSf v).draws = s.draws := rfl
end

section
variable (s : State) (v : Nibble)
@[simp] theorem State.setSp_acc : (s.setSp v).acc = s.acc := rfl
@[simp] theorem State.setSp_hr : (s.setSp v).hr = s.hr := rfl
@[simp] theorem State.setSp_lr : (s.setSp v).lr = s.lr := rfl
@[simp] theorem State.setSp_pc : (s.setSp v).pc = s.pc := rfl
@[simp] theorem State.setSp_cf : (s.setSp v).cf = s.cf := rfl
@[simp] theorem State.setSp_zf : (s.setSp v).zf = s.zf := rfl
@[simp] theorem State.setSp_sf : (s.setSp v).sf = s.sf := rfl
@[simp] theorem State.setSp_sp : (s.setSp v).sp = v := rfl
@[simp] theorem State.setSp_dp : (s.setSp v).dp = s.dp := rfl
@[simp] theorem State.setSp_ta : (s.setSp v).ta = s.ta := rfl
@[simp] theorem State.setSp_tb : (s.setSp v).tb = s.tb := rfl
@[simp] theorem State.setSp_stack : (s.setSp v).stack = s.stack := rfl
@[simp] theorem State.setSp_ei : (s.setSp v).ei = s.ei := rfl
@[simp] theorem State.setSp_mask : (s.setSp v).mask = s.mask := rfl
@[simp] theorem State.setSp_il : (s.setSp v).il = s.il := rfl
@[simp] theorem State.setSp_ram : (s.setSp v).ram = s.ram := rfl
@[simp] theorem State.setSp_rom : (s.setSp v).rom = s.rom := rfl
@[simp] theorem State.setSp_latch : (s.setSp v).latch = s.latch := rfl
@[simp] theorem State.setSp_cmd : (s.setSp v).cmd = s.cmd := rfl
@[simp] theorem State.setSp_htc : (s.setSp v).htc = s.htc := rfl
@[simp] theorem State.setSp_mode : (s.setSp v).mode = s.mode := rfl
@[simp] theorem State.setSp_wks : (s.setSp v).wks = s.wks := rfl
@[simp] theorem State.setSp_lfs : (s.setSp v).lfs = s.lfs := rfl
@[simp] theorem State.setSp_lcdPower : (s.setSp v).lcdPower = s.lcdPower := rfl
@[simp] theorem State.setSp_wdtCount : (s.setSp v).wdtCount = s.wdtCount := rfl
@[simp] theorem State.setSp_pins : (s.setSp v).pins = s.pins := rfl
@[simp] theorem State.setSp_schedule : (s.setSp v).schedule = s.schedule := rfl
@[simp] theorem State.setSp_opts : (s.setSp v).opts = s.opts := rfl
@[simp] theorem State.setSp_draws : (s.setSp v).draws = s.draws := rfl
end

section
variable (s : State) (v : Word12)
@[simp] theorem State.setDp_acc : (s.setDp v).acc = s.acc := rfl
@[simp] theorem State.setDp_hr : (s.setDp v).hr = s.hr := rfl
@[simp] theorem State.setDp_lr : (s.setDp v).lr = s.lr := rfl
@[simp] theorem State.setDp_pc : (s.setDp v).pc = s.pc := rfl
@[simp] theorem State.setDp_cf : (s.setDp v).cf = s.cf := rfl
@[simp] theorem State.setDp_zf : (s.setDp v).zf = s.zf := rfl
@[simp] theorem State.setDp_sf : (s.setDp v).sf = s.sf := rfl
@[simp] theorem State.setDp_sp : (s.setDp v).sp = s.sp := rfl
@[simp] theorem State.setDp_dp : (s.setDp v).dp = v := rfl
@[simp] theorem State.setDp_ta : (s.setDp v).ta = s.ta := rfl
@[simp] theorem State.setDp_tb : (s.setDp v).tb = s.tb := rfl
@[simp] theorem State.setDp_stack : (s.setDp v).stack = s.stack := rfl
@[simp] theorem State.setDp_ei : (s.setDp v).ei = s.ei := rfl
@[simp] theorem State.setDp_mask : (s.setDp v).mask = s.mask := rfl
@[simp] theorem State.setDp_il : (s.setDp v).il = s.il := rfl
@[simp] theorem State.setDp_ram : (s.setDp v).ram = s.ram := rfl
@[simp] theorem State.setDp_rom : (s.setDp v).rom = s.rom := rfl
@[simp] theorem State.setDp_latch : (s.setDp v).latch = s.latch := rfl
@[simp] theorem State.setDp_cmd : (s.setDp v).cmd = s.cmd := rfl
@[simp] theorem State.setDp_htc : (s.setDp v).htc = s.htc := rfl
@[simp] theorem State.setDp_mode : (s.setDp v).mode = s.mode := rfl
@[simp] theorem State.setDp_wks : (s.setDp v).wks = s.wks := rfl
@[simp] theorem State.setDp_lfs : (s.setDp v).lfs = s.lfs := rfl
@[simp] theorem State.setDp_lcdPower : (s.setDp v).lcdPower = s.lcdPower := rfl
@[simp] theorem State.setDp_wdtCount : (s.setDp v).wdtCount = s.wdtCount := rfl
@[simp] theorem State.setDp_pins : (s.setDp v).pins = s.pins := rfl
@[simp] theorem State.setDp_schedule : (s.setDp v).schedule = s.schedule := rfl
@[simp] theorem State.setDp_opts : (s.setDp v).opts = s.opts := rfl
@[simp] theorem State.setDp_draws : (s.setDp v).draws = s.draws := rfl
end

section
variable (s : State) (v : Word12)
@[simp] theorem State.setTa_acc : (s.setTa v).acc = s.acc := rfl
@[simp] theorem State.setTa_hr : (s.setTa v).hr = s.hr := rfl
@[simp] theorem State.setTa_lr : (s.setTa v).lr = s.lr := rfl
@[simp] theorem State.setTa_pc : (s.setTa v).pc = s.pc := rfl
@[simp] theorem State.setTa_cf : (s.setTa v).cf = s.cf := rfl
@[simp] theorem State.setTa_zf : (s.setTa v).zf = s.zf := rfl
@[simp] theorem State.setTa_sf : (s.setTa v).sf = s.sf := rfl
@[simp] theorem State.setTa_sp : (s.setTa v).sp = s.sp := rfl
@[simp] theorem State.setTa_dp : (s.setTa v).dp = s.dp := rfl
@[simp] theorem State.setTa_ta : (s.setTa v).ta = v := rfl
@[simp] theorem State.setTa_tb : (s.setTa v).tb = s.tb := rfl
@[simp] theorem State.setTa_stack : (s.setTa v).stack = s.stack := rfl
@[simp] theorem State.setTa_ei : (s.setTa v).ei = s.ei := rfl
@[simp] theorem State.setTa_mask : (s.setTa v).mask = s.mask := rfl
@[simp] theorem State.setTa_il : (s.setTa v).il = s.il := rfl
@[simp] theorem State.setTa_ram : (s.setTa v).ram = s.ram := rfl
@[simp] theorem State.setTa_rom : (s.setTa v).rom = s.rom := rfl
@[simp] theorem State.setTa_latch : (s.setTa v).latch = s.latch := rfl
@[simp] theorem State.setTa_cmd : (s.setTa v).cmd = s.cmd := rfl
@[simp] theorem State.setTa_htc : (s.setTa v).htc = s.htc := rfl
@[simp] theorem State.setTa_mode : (s.setTa v).mode = s.mode := rfl
@[simp] theorem State.setTa_wks : (s.setTa v).wks = s.wks := rfl
@[simp] theorem State.setTa_lfs : (s.setTa v).lfs = s.lfs := rfl
@[simp] theorem State.setTa_lcdPower : (s.setTa v).lcdPower = s.lcdPower := rfl
@[simp] theorem State.setTa_wdtCount : (s.setTa v).wdtCount = s.wdtCount := rfl
@[simp] theorem State.setTa_pins : (s.setTa v).pins = s.pins := rfl
@[simp] theorem State.setTa_schedule : (s.setTa v).schedule = s.schedule := rfl
@[simp] theorem State.setTa_opts : (s.setTa v).opts = s.opts := rfl
@[simp] theorem State.setTa_draws : (s.setTa v).draws = s.draws := rfl
end

section
variable (s : State) (v : Word12)
@[simp] theorem State.setTb_acc : (s.setTb v).acc = s.acc := rfl
@[simp] theorem State.setTb_hr : (s.setTb v).hr = s.hr := rfl
@[simp] theorem State.setTb_lr : (s.setTb v).lr = s.lr := rfl
@[simp] theorem State.setTb_pc : (s.setTb v).pc = s.pc := rfl
@[simp] theorem State.setTb_cf : (s.setTb v).cf = s.cf := rfl
@[simp] theorem State.setTb_zf : (s.setTb v).zf = s.zf := rfl
@[simp] theorem State.setTb_sf : (s.setTb v).sf = s.sf := rfl
@[simp] theorem State.setTb_sp : (s.setTb v).sp = s.sp := rfl
@[simp] theorem State.setTb_dp : (s.setTb v).dp = s.dp := rfl
@[simp] theorem State.setTb_ta : (s.setTb v).ta = s.ta := rfl
@[simp] theorem State.setTb_tb : (s.setTb v).tb = v := rfl
@[simp] theorem State.setTb_stack : (s.setTb v).stack = s.stack := rfl
@[simp] theorem State.setTb_ei : (s.setTb v).ei = s.ei := rfl
@[simp] theorem State.setTb_mask : (s.setTb v).mask = s.mask := rfl
@[simp] theorem State.setTb_il : (s.setTb v).il = s.il := rfl
@[simp] theorem State.setTb_ram : (s.setTb v).ram = s.ram := rfl
@[simp] theorem State.setTb_rom : (s.setTb v).rom = s.rom := rfl
@[simp] theorem State.setTb_latch : (s.setTb v).latch = s.latch := rfl
@[simp] theorem State.setTb_cmd : (s.setTb v).cmd = s.cmd := rfl
@[simp] theorem State.setTb_htc : (s.setTb v).htc = s.htc := rfl
@[simp] theorem State.setTb_mode : (s.setTb v).mode = s.mode := rfl
@[simp] theorem State.setTb_wks : (s.setTb v).wks = s.wks := rfl
@[simp] theorem State.setTb_lfs : (s.setTb v).lfs = s.lfs := rfl
@[simp] theorem State.setTb_lcdPower : (s.setTb v).lcdPower = s.lcdPower := rfl
@[simp] theorem State.setTb_wdtCount : (s.setTb v).wdtCount = s.wdtCount := rfl
@[simp] theorem State.setTb_pins : (s.setTb v).pins = s.pins := rfl
@[simp] theorem State.setTb_schedule : (s.setTb v).schedule = s.schedule := rfl
@[simp] theorem State.setTb_opts : (s.setTb v).opts = s.opts := rfl
@[simp] theorem State.setTb_draws : (s.setTb v).draws = s.draws := rfl
end

section
variable (s : State) (v : Vector StackEntry 13)
@[simp] theorem State.setStack_acc : (s.setStack v).acc = s.acc := rfl
@[simp] theorem State.setStack_hr : (s.setStack v).hr = s.hr := rfl
@[simp] theorem State.setStack_lr : (s.setStack v).lr = s.lr := rfl
@[simp] theorem State.setStack_pc : (s.setStack v).pc = s.pc := rfl
@[simp] theorem State.setStack_cf : (s.setStack v).cf = s.cf := rfl
@[simp] theorem State.setStack_zf : (s.setStack v).zf = s.zf := rfl
@[simp] theorem State.setStack_sf : (s.setStack v).sf = s.sf := rfl
@[simp] theorem State.setStack_sp : (s.setStack v).sp = s.sp := rfl
@[simp] theorem State.setStack_dp : (s.setStack v).dp = s.dp := rfl
@[simp] theorem State.setStack_ta : (s.setStack v).ta = s.ta := rfl
@[simp] theorem State.setStack_tb : (s.setStack v).tb = s.tb := rfl
@[simp] theorem State.setStack_stack : (s.setStack v).stack = v := rfl
@[simp] theorem State.setStack_ei : (s.setStack v).ei = s.ei := rfl
@[simp] theorem State.setStack_mask : (s.setStack v).mask = s.mask := rfl
@[simp] theorem State.setStack_il : (s.setStack v).il = s.il := rfl
@[simp] theorem State.setStack_ram : (s.setStack v).ram = s.ram := rfl
@[simp] theorem State.setStack_rom : (s.setStack v).rom = s.rom := rfl
@[simp] theorem State.setStack_latch : (s.setStack v).latch = s.latch := rfl
@[simp] theorem State.setStack_cmd : (s.setStack v).cmd = s.cmd := rfl
@[simp] theorem State.setStack_htc : (s.setStack v).htc = s.htc := rfl
@[simp] theorem State.setStack_mode : (s.setStack v).mode = s.mode := rfl
@[simp] theorem State.setStack_wks : (s.setStack v).wks = s.wks := rfl
@[simp] theorem State.setStack_lfs : (s.setStack v).lfs = s.lfs := rfl
@[simp] theorem State.setStack_lcdPower : (s.setStack v).lcdPower = s.lcdPower := rfl
@[simp] theorem State.setStack_wdtCount : (s.setStack v).wdtCount = s.wdtCount := rfl
@[simp] theorem State.setStack_pins : (s.setStack v).pins = s.pins := rfl
@[simp] theorem State.setStack_schedule : (s.setStack v).schedule = s.schedule := rfl
@[simp] theorem State.setStack_opts : (s.setStack v).opts = s.opts := rfl
@[simp] theorem State.setStack_draws : (s.setStack v).draws = s.draws := rfl
end

section
variable (s : State) (v : Bool)
@[simp] theorem State.setEi_acc : (s.setEi v).acc = s.acc := rfl
@[simp] theorem State.setEi_hr : (s.setEi v).hr = s.hr := rfl
@[simp] theorem State.setEi_lr : (s.setEi v).lr = s.lr := rfl
@[simp] theorem State.setEi_pc : (s.setEi v).pc = s.pc := rfl
@[simp] theorem State.setEi_cf : (s.setEi v).cf = s.cf := rfl
@[simp] theorem State.setEi_zf : (s.setEi v).zf = s.zf := rfl
@[simp] theorem State.setEi_sf : (s.setEi v).sf = s.sf := rfl
@[simp] theorem State.setEi_sp : (s.setEi v).sp = s.sp := rfl
@[simp] theorem State.setEi_dp : (s.setEi v).dp = s.dp := rfl
@[simp] theorem State.setEi_ta : (s.setEi v).ta = s.ta := rfl
@[simp] theorem State.setEi_tb : (s.setEi v).tb = s.tb := rfl
@[simp] theorem State.setEi_stack : (s.setEi v).stack = s.stack := rfl
@[simp] theorem State.setEi_ei : (s.setEi v).ei = v := rfl
@[simp] theorem State.setEi_mask : (s.setEi v).mask = s.mask := rfl
@[simp] theorem State.setEi_il : (s.setEi v).il = s.il := rfl
@[simp] theorem State.setEi_ram : (s.setEi v).ram = s.ram := rfl
@[simp] theorem State.setEi_rom : (s.setEi v).rom = s.rom := rfl
@[simp] theorem State.setEi_latch : (s.setEi v).latch = s.latch := rfl
@[simp] theorem State.setEi_cmd : (s.setEi v).cmd = s.cmd := rfl
@[simp] theorem State.setEi_htc : (s.setEi v).htc = s.htc := rfl
@[simp] theorem State.setEi_mode : (s.setEi v).mode = s.mode := rfl
@[simp] theorem State.setEi_wks : (s.setEi v).wks = s.wks := rfl
@[simp] theorem State.setEi_lfs : (s.setEi v).lfs = s.lfs := rfl
@[simp] theorem State.setEi_lcdPower : (s.setEi v).lcdPower = s.lcdPower := rfl
@[simp] theorem State.setEi_wdtCount : (s.setEi v).wdtCount = s.wdtCount := rfl
@[simp] theorem State.setEi_pins : (s.setEi v).pins = s.pins := rfl
@[simp] theorem State.setEi_schedule : (s.setEi v).schedule = s.schedule := rfl
@[simp] theorem State.setEi_opts : (s.setEi v).opts = s.opts := rfl
@[simp] theorem State.setEi_draws : (s.setEi v).draws = s.draws := rfl
end

section
variable (s : State) (v : Nibble)
@[simp] theorem State.setMask_acc : (s.setMask v).acc = s.acc := rfl
@[simp] theorem State.setMask_hr : (s.setMask v).hr = s.hr := rfl
@[simp] theorem State.setMask_lr : (s.setMask v).lr = s.lr := rfl
@[simp] theorem State.setMask_pc : (s.setMask v).pc = s.pc := rfl
@[simp] theorem State.setMask_cf : (s.setMask v).cf = s.cf := rfl
@[simp] theorem State.setMask_zf : (s.setMask v).zf = s.zf := rfl
@[simp] theorem State.setMask_sf : (s.setMask v).sf = s.sf := rfl
@[simp] theorem State.setMask_sp : (s.setMask v).sp = s.sp := rfl
@[simp] theorem State.setMask_dp : (s.setMask v).dp = s.dp := rfl
@[simp] theorem State.setMask_ta : (s.setMask v).ta = s.ta := rfl
@[simp] theorem State.setMask_tb : (s.setMask v).tb = s.tb := rfl
@[simp] theorem State.setMask_stack : (s.setMask v).stack = s.stack := rfl
@[simp] theorem State.setMask_ei : (s.setMask v).ei = s.ei := rfl
@[simp] theorem State.setMask_mask : (s.setMask v).mask = v := rfl
@[simp] theorem State.setMask_il : (s.setMask v).il = s.il := rfl
@[simp] theorem State.setMask_ram : (s.setMask v).ram = s.ram := rfl
@[simp] theorem State.setMask_rom : (s.setMask v).rom = s.rom := rfl
@[simp] theorem State.setMask_latch : (s.setMask v).latch = s.latch := rfl
@[simp] theorem State.setMask_cmd : (s.setMask v).cmd = s.cmd := rfl
@[simp] theorem State.setMask_htc : (s.setMask v).htc = s.htc := rfl
@[simp] theorem State.setMask_mode : (s.setMask v).mode = s.mode := rfl
@[simp] theorem State.setMask_wks : (s.setMask v).wks = s.wks := rfl
@[simp] theorem State.setMask_lfs : (s.setMask v).lfs = s.lfs := rfl
@[simp] theorem State.setMask_lcdPower : (s.setMask v).lcdPower = s.lcdPower := rfl
@[simp] theorem State.setMask_wdtCount : (s.setMask v).wdtCount = s.wdtCount := rfl
@[simp] theorem State.setMask_pins : (s.setMask v).pins = s.pins := rfl
@[simp] theorem State.setMask_schedule : (s.setMask v).schedule = s.schedule := rfl
@[simp] theorem State.setMask_opts : (s.setMask v).opts = s.opts := rfl
@[simp] theorem State.setMask_draws : (s.setMask v).draws = s.draws := rfl
end

section
variable (s : State) (v : BitVec 6)
@[simp] theorem State.setIl_acc : (s.setIl v).acc = s.acc := rfl
@[simp] theorem State.setIl_hr : (s.setIl v).hr = s.hr := rfl
@[simp] theorem State.setIl_lr : (s.setIl v).lr = s.lr := rfl
@[simp] theorem State.setIl_pc : (s.setIl v).pc = s.pc := rfl
@[simp] theorem State.setIl_cf : (s.setIl v).cf = s.cf := rfl
@[simp] theorem State.setIl_zf : (s.setIl v).zf = s.zf := rfl
@[simp] theorem State.setIl_sf : (s.setIl v).sf = s.sf := rfl
@[simp] theorem State.setIl_sp : (s.setIl v).sp = s.sp := rfl
@[simp] theorem State.setIl_dp : (s.setIl v).dp = s.dp := rfl
@[simp] theorem State.setIl_ta : (s.setIl v).ta = s.ta := rfl
@[simp] theorem State.setIl_tb : (s.setIl v).tb = s.tb := rfl
@[simp] theorem State.setIl_stack : (s.setIl v).stack = s.stack := rfl
@[simp] theorem State.setIl_ei : (s.setIl v).ei = s.ei := rfl
@[simp] theorem State.setIl_mask : (s.setIl v).mask = s.mask := rfl
@[simp] theorem State.setIl_il : (s.setIl v).il = v := rfl
@[simp] theorem State.setIl_ram : (s.setIl v).ram = s.ram := rfl
@[simp] theorem State.setIl_rom : (s.setIl v).rom = s.rom := rfl
@[simp] theorem State.setIl_latch : (s.setIl v).latch = s.latch := rfl
@[simp] theorem State.setIl_cmd : (s.setIl v).cmd = s.cmd := rfl
@[simp] theorem State.setIl_htc : (s.setIl v).htc = s.htc := rfl
@[simp] theorem State.setIl_mode : (s.setIl v).mode = s.mode := rfl
@[simp] theorem State.setIl_wks : (s.setIl v).wks = s.wks := rfl
@[simp] theorem State.setIl_lfs : (s.setIl v).lfs = s.lfs := rfl
@[simp] theorem State.setIl_lcdPower : (s.setIl v).lcdPower = s.lcdPower := rfl
@[simp] theorem State.setIl_wdtCount : (s.setIl v).wdtCount = s.wdtCount := rfl
@[simp] theorem State.setIl_pins : (s.setIl v).pins = s.pins := rfl
@[simp] theorem State.setIl_schedule : (s.setIl v).schedule = s.schedule := rfl
@[simp] theorem State.setIl_opts : (s.setIl v).opts = s.opts := rfl
@[simp] theorem State.setIl_draws : (s.setIl v).draws = s.draws := rfl
end

section
variable (s : State) (v : List NibbleCell)
@[simp] theorem State.setRam_acc : (s.setRam v).acc = s.acc := rfl
@[simp] theorem State.setRam_hr : (s.setRam v).hr = s.hr := rfl
@[simp] theorem State.setRam_lr : (s.setRam v).lr = s.lr := rfl
@[simp] theorem State.setRam_pc : (s.setRam v).pc = s.pc := rfl
@[simp] theorem State.setRam_cf : (s.setRam v).cf = s.cf := rfl
@[simp] theorem State.setRam_zf : (s.setRam v).zf = s.zf := rfl
@[simp] theorem State.setRam_sf : (s.setRam v).sf = s.sf := rfl
@[simp] theorem State.setRam_sp : (s.setRam v).sp = s.sp := rfl
@[simp] theorem State.setRam_dp : (s.setRam v).dp = s.dp := rfl
@[simp] theorem State.setRam_ta : (s.setRam v).ta = s.ta := rfl
@[simp] theorem State.setRam_tb : (s.setRam v).tb = s.tb := rfl
@[simp] theorem State.setRam_stack : (s.setRam v).stack = s.stack := rfl
@[simp] theorem State.setRam_ei : (s.setRam v).ei = s.ei := rfl
@[simp] theorem State.setRam_mask : (s.setRam v).mask = s.mask := rfl
@[simp] theorem State.setRam_il : (s.setRam v).il = s.il := rfl
@[simp] theorem State.setRam_ram : (s.setRam v).ram = v := rfl
@[simp] theorem State.setRam_rom : (s.setRam v).rom = s.rom := rfl
@[simp] theorem State.setRam_latch : (s.setRam v).latch = s.latch := rfl
@[simp] theorem State.setRam_cmd : (s.setRam v).cmd = s.cmd := rfl
@[simp] theorem State.setRam_htc : (s.setRam v).htc = s.htc := rfl
@[simp] theorem State.setRam_mode : (s.setRam v).mode = s.mode := rfl
@[simp] theorem State.setRam_wks : (s.setRam v).wks = s.wks := rfl
@[simp] theorem State.setRam_lfs : (s.setRam v).lfs = s.lfs := rfl
@[simp] theorem State.setRam_lcdPower : (s.setRam v).lcdPower = s.lcdPower := rfl
@[simp] theorem State.setRam_wdtCount : (s.setRam v).wdtCount = s.wdtCount := rfl
@[simp] theorem State.setRam_pins : (s.setRam v).pins = s.pins := rfl
@[simp] theorem State.setRam_schedule : (s.setRam v).schedule = s.schedule := rfl
@[simp] theorem State.setRam_opts : (s.setRam v).opts = s.opts := rfl
@[simp] theorem State.setRam_draws : (s.setRam v).draws = s.draws := rfl
end

section
variable (s : State) (v : List Host.Cell)
@[simp] theorem State.setRom_acc : (s.setRom v).acc = s.acc := rfl
@[simp] theorem State.setRom_hr : (s.setRom v).hr = s.hr := rfl
@[simp] theorem State.setRom_lr : (s.setRom v).lr = s.lr := rfl
@[simp] theorem State.setRom_pc : (s.setRom v).pc = s.pc := rfl
@[simp] theorem State.setRom_cf : (s.setRom v).cf = s.cf := rfl
@[simp] theorem State.setRom_zf : (s.setRom v).zf = s.zf := rfl
@[simp] theorem State.setRom_sf : (s.setRom v).sf = s.sf := rfl
@[simp] theorem State.setRom_sp : (s.setRom v).sp = s.sp := rfl
@[simp] theorem State.setRom_dp : (s.setRom v).dp = s.dp := rfl
@[simp] theorem State.setRom_ta : (s.setRom v).ta = s.ta := rfl
@[simp] theorem State.setRom_tb : (s.setRom v).tb = s.tb := rfl
@[simp] theorem State.setRom_stack : (s.setRom v).stack = s.stack := rfl
@[simp] theorem State.setRom_ei : (s.setRom v).ei = s.ei := rfl
@[simp] theorem State.setRom_mask : (s.setRom v).mask = s.mask := rfl
@[simp] theorem State.setRom_il : (s.setRom v).il = s.il := rfl
@[simp] theorem State.setRom_ram : (s.setRom v).ram = s.ram := rfl
@[simp] theorem State.setRom_rom : (s.setRom v).rom = v := rfl
@[simp] theorem State.setRom_latch : (s.setRom v).latch = s.latch := rfl
@[simp] theorem State.setRom_cmd : (s.setRom v).cmd = s.cmd := rfl
@[simp] theorem State.setRom_htc : (s.setRom v).htc = s.htc := rfl
@[simp] theorem State.setRom_mode : (s.setRom v).mode = s.mode := rfl
@[simp] theorem State.setRom_wks : (s.setRom v).wks = s.wks := rfl
@[simp] theorem State.setRom_lfs : (s.setRom v).lfs = s.lfs := rfl
@[simp] theorem State.setRom_lcdPower : (s.setRom v).lcdPower = s.lcdPower := rfl
@[simp] theorem State.setRom_wdtCount : (s.setRom v).wdtCount = s.wdtCount := rfl
@[simp] theorem State.setRom_pins : (s.setRom v).pins = s.pins := rfl
@[simp] theorem State.setRom_schedule : (s.setRom v).schedule = s.schedule := rfl
@[simp] theorem State.setRom_opts : (s.setRom v).opts = s.opts := rfl
@[simp] theorem State.setRom_draws : (s.setRom v).draws = s.draws := rfl
end

section
variable (s : State) (v : Latches)
@[simp] theorem State.setLatch_acc : (s.setLatch v).acc = s.acc := rfl
@[simp] theorem State.setLatch_hr : (s.setLatch v).hr = s.hr := rfl
@[simp] theorem State.setLatch_lr : (s.setLatch v).lr = s.lr := rfl
@[simp] theorem State.setLatch_pc : (s.setLatch v).pc = s.pc := rfl
@[simp] theorem State.setLatch_cf : (s.setLatch v).cf = s.cf := rfl
@[simp] theorem State.setLatch_zf : (s.setLatch v).zf = s.zf := rfl
@[simp] theorem State.setLatch_sf : (s.setLatch v).sf = s.sf := rfl
@[simp] theorem State.setLatch_sp : (s.setLatch v).sp = s.sp := rfl
@[simp] theorem State.setLatch_dp : (s.setLatch v).dp = s.dp := rfl
@[simp] theorem State.setLatch_ta : (s.setLatch v).ta = s.ta := rfl
@[simp] theorem State.setLatch_tb : (s.setLatch v).tb = s.tb := rfl
@[simp] theorem State.setLatch_stack : (s.setLatch v).stack = s.stack := rfl
@[simp] theorem State.setLatch_ei : (s.setLatch v).ei = s.ei := rfl
@[simp] theorem State.setLatch_mask : (s.setLatch v).mask = s.mask := rfl
@[simp] theorem State.setLatch_il : (s.setLatch v).il = s.il := rfl
@[simp] theorem State.setLatch_ram : (s.setLatch v).ram = s.ram := rfl
@[simp] theorem State.setLatch_rom : (s.setLatch v).rom = s.rom := rfl
@[simp] theorem State.setLatch_latch : (s.setLatch v).latch = v := rfl
@[simp] theorem State.setLatch_cmd : (s.setLatch v).cmd = s.cmd := rfl
@[simp] theorem State.setLatch_htc : (s.setLatch v).htc = s.htc := rfl
@[simp] theorem State.setLatch_mode : (s.setLatch v).mode = s.mode := rfl
@[simp] theorem State.setLatch_wks : (s.setLatch v).wks = s.wks := rfl
@[simp] theorem State.setLatch_lfs : (s.setLatch v).lfs = s.lfs := rfl
@[simp] theorem State.setLatch_lcdPower : (s.setLatch v).lcdPower = s.lcdPower := rfl
@[simp] theorem State.setLatch_wdtCount : (s.setLatch v).wdtCount = s.wdtCount := rfl
@[simp] theorem State.setLatch_pins : (s.setLatch v).pins = s.pins := rfl
@[simp] theorem State.setLatch_schedule : (s.setLatch v).schedule = s.schedule := rfl
@[simp] theorem State.setLatch_opts : (s.setLatch v).opts = s.opts := rfl
@[simp] theorem State.setLatch_draws : (s.setLatch v).draws = s.draws := rfl
end

section
variable (s : State) (v : Commands)
@[simp] theorem State.setCmd_acc : (s.setCmd v).acc = s.acc := rfl
@[simp] theorem State.setCmd_hr : (s.setCmd v).hr = s.hr := rfl
@[simp] theorem State.setCmd_lr : (s.setCmd v).lr = s.lr := rfl
@[simp] theorem State.setCmd_pc : (s.setCmd v).pc = s.pc := rfl
@[simp] theorem State.setCmd_cf : (s.setCmd v).cf = s.cf := rfl
@[simp] theorem State.setCmd_zf : (s.setCmd v).zf = s.zf := rfl
@[simp] theorem State.setCmd_sf : (s.setCmd v).sf = s.sf := rfl
@[simp] theorem State.setCmd_sp : (s.setCmd v).sp = s.sp := rfl
@[simp] theorem State.setCmd_dp : (s.setCmd v).dp = s.dp := rfl
@[simp] theorem State.setCmd_ta : (s.setCmd v).ta = s.ta := rfl
@[simp] theorem State.setCmd_tb : (s.setCmd v).tb = s.tb := rfl
@[simp] theorem State.setCmd_stack : (s.setCmd v).stack = s.stack := rfl
@[simp] theorem State.setCmd_ei : (s.setCmd v).ei = s.ei := rfl
@[simp] theorem State.setCmd_mask : (s.setCmd v).mask = s.mask := rfl
@[simp] theorem State.setCmd_il : (s.setCmd v).il = s.il := rfl
@[simp] theorem State.setCmd_ram : (s.setCmd v).ram = s.ram := rfl
@[simp] theorem State.setCmd_rom : (s.setCmd v).rom = s.rom := rfl
@[simp] theorem State.setCmd_latch : (s.setCmd v).latch = s.latch := rfl
@[simp] theorem State.setCmd_cmd : (s.setCmd v).cmd = v := rfl
@[simp] theorem State.setCmd_htc : (s.setCmd v).htc = s.htc := rfl
@[simp] theorem State.setCmd_mode : (s.setCmd v).mode = s.mode := rfl
@[simp] theorem State.setCmd_wks : (s.setCmd v).wks = s.wks := rfl
@[simp] theorem State.setCmd_lfs : (s.setCmd v).lfs = s.lfs := rfl
@[simp] theorem State.setCmd_lcdPower : (s.setCmd v).lcdPower = s.lcdPower := rfl
@[simp] theorem State.setCmd_wdtCount : (s.setCmd v).wdtCount = s.wdtCount := rfl
@[simp] theorem State.setCmd_pins : (s.setCmd v).pins = s.pins := rfl
@[simp] theorem State.setCmd_schedule : (s.setCmd v).schedule = s.schedule := rfl
@[simp] theorem State.setCmd_opts : (s.setCmd v).opts = s.opts := rfl
@[simp] theorem State.setCmd_draws : (s.setCmd v).draws = s.draws := rfl
end

section
variable (s : State) (v : Htc)
@[simp] theorem State.setHtc_acc : (s.setHtc v).acc = s.acc := rfl
@[simp] theorem State.setHtc_hr : (s.setHtc v).hr = s.hr := rfl
@[simp] theorem State.setHtc_lr : (s.setHtc v).lr = s.lr := rfl
@[simp] theorem State.setHtc_pc : (s.setHtc v).pc = s.pc := rfl
@[simp] theorem State.setHtc_cf : (s.setHtc v).cf = s.cf := rfl
@[simp] theorem State.setHtc_zf : (s.setHtc v).zf = s.zf := rfl
@[simp] theorem State.setHtc_sf : (s.setHtc v).sf = s.sf := rfl
@[simp] theorem State.setHtc_sp : (s.setHtc v).sp = s.sp := rfl
@[simp] theorem State.setHtc_dp : (s.setHtc v).dp = s.dp := rfl
@[simp] theorem State.setHtc_ta : (s.setHtc v).ta = s.ta := rfl
@[simp] theorem State.setHtc_tb : (s.setHtc v).tb = s.tb := rfl
@[simp] theorem State.setHtc_stack : (s.setHtc v).stack = s.stack := rfl
@[simp] theorem State.setHtc_ei : (s.setHtc v).ei = s.ei := rfl
@[simp] theorem State.setHtc_mask : (s.setHtc v).mask = s.mask := rfl
@[simp] theorem State.setHtc_il : (s.setHtc v).il = s.il := rfl
@[simp] theorem State.setHtc_ram : (s.setHtc v).ram = s.ram := rfl
@[simp] theorem State.setHtc_rom : (s.setHtc v).rom = s.rom := rfl
@[simp] theorem State.setHtc_latch : (s.setHtc v).latch = s.latch := rfl
@[simp] theorem State.setHtc_cmd : (s.setHtc v).cmd = s.cmd := rfl
@[simp] theorem State.setHtc_htc : (s.setHtc v).htc = v := rfl
@[simp] theorem State.setHtc_mode : (s.setHtc v).mode = s.mode := rfl
@[simp] theorem State.setHtc_wks : (s.setHtc v).wks = s.wks := rfl
@[simp] theorem State.setHtc_lfs : (s.setHtc v).lfs = s.lfs := rfl
@[simp] theorem State.setHtc_lcdPower : (s.setHtc v).lcdPower = s.lcdPower := rfl
@[simp] theorem State.setHtc_wdtCount : (s.setHtc v).wdtCount = s.wdtCount := rfl
@[simp] theorem State.setHtc_pins : (s.setHtc v).pins = s.pins := rfl
@[simp] theorem State.setHtc_schedule : (s.setHtc v).schedule = s.schedule := rfl
@[simp] theorem State.setHtc_opts : (s.setHtc v).opts = s.opts := rfl
@[simp] theorem State.setHtc_draws : (s.setHtc v).draws = s.draws := rfl
end

section
variable (s : State) (v : Mode)
@[simp] theorem State.setMode_acc : (s.setMode v).acc = s.acc := rfl
@[simp] theorem State.setMode_hr : (s.setMode v).hr = s.hr := rfl
@[simp] theorem State.setMode_lr : (s.setMode v).lr = s.lr := rfl
@[simp] theorem State.setMode_pc : (s.setMode v).pc = s.pc := rfl
@[simp] theorem State.setMode_cf : (s.setMode v).cf = s.cf := rfl
@[simp] theorem State.setMode_zf : (s.setMode v).zf = s.zf := rfl
@[simp] theorem State.setMode_sf : (s.setMode v).sf = s.sf := rfl
@[simp] theorem State.setMode_sp : (s.setMode v).sp = s.sp := rfl
@[simp] theorem State.setMode_dp : (s.setMode v).dp = s.dp := rfl
@[simp] theorem State.setMode_ta : (s.setMode v).ta = s.ta := rfl
@[simp] theorem State.setMode_tb : (s.setMode v).tb = s.tb := rfl
@[simp] theorem State.setMode_stack : (s.setMode v).stack = s.stack := rfl
@[simp] theorem State.setMode_ei : (s.setMode v).ei = s.ei := rfl
@[simp] theorem State.setMode_mask : (s.setMode v).mask = s.mask := rfl
@[simp] theorem State.setMode_il : (s.setMode v).il = s.il := rfl
@[simp] theorem State.setMode_ram : (s.setMode v).ram = s.ram := rfl
@[simp] theorem State.setMode_rom : (s.setMode v).rom = s.rom := rfl
@[simp] theorem State.setMode_latch : (s.setMode v).latch = s.latch := rfl
@[simp] theorem State.setMode_cmd : (s.setMode v).cmd = s.cmd := rfl
@[simp] theorem State.setMode_htc : (s.setMode v).htc = s.htc := rfl
@[simp] theorem State.setMode_mode : (s.setMode v).mode = v := rfl
@[simp] theorem State.setMode_wks : (s.setMode v).wks = s.wks := rfl
@[simp] theorem State.setMode_lfs : (s.setMode v).lfs = s.lfs := rfl
@[simp] theorem State.setMode_lcdPower : (s.setMode v).lcdPower = s.lcdPower := rfl
@[simp] theorem State.setMode_wdtCount : (s.setMode v).wdtCount = s.wdtCount := rfl
@[simp] theorem State.setMode_pins : (s.setMode v).pins = s.pins := rfl
@[simp] theorem State.setMode_schedule : (s.setMode v).schedule = s.schedule := rfl
@[simp] theorem State.setMode_opts : (s.setMode v).opts = s.opts := rfl
@[simp] theorem State.setMode_draws : (s.setMode v).draws = s.draws := rfl
end

section
variable (s : State) (v : Bool)
@[simp] theorem State.setWks_acc : (s.setWks v).acc = s.acc := rfl
@[simp] theorem State.setWks_hr : (s.setWks v).hr = s.hr := rfl
@[simp] theorem State.setWks_lr : (s.setWks v).lr = s.lr := rfl
@[simp] theorem State.setWks_pc : (s.setWks v).pc = s.pc := rfl
@[simp] theorem State.setWks_cf : (s.setWks v).cf = s.cf := rfl
@[simp] theorem State.setWks_zf : (s.setWks v).zf = s.zf := rfl
@[simp] theorem State.setWks_sf : (s.setWks v).sf = s.sf := rfl
@[simp] theorem State.setWks_sp : (s.setWks v).sp = s.sp := rfl
@[simp] theorem State.setWks_dp : (s.setWks v).dp = s.dp := rfl
@[simp] theorem State.setWks_ta : (s.setWks v).ta = s.ta := rfl
@[simp] theorem State.setWks_tb : (s.setWks v).tb = s.tb := rfl
@[simp] theorem State.setWks_stack : (s.setWks v).stack = s.stack := rfl
@[simp] theorem State.setWks_ei : (s.setWks v).ei = s.ei := rfl
@[simp] theorem State.setWks_mask : (s.setWks v).mask = s.mask := rfl
@[simp] theorem State.setWks_il : (s.setWks v).il = s.il := rfl
@[simp] theorem State.setWks_ram : (s.setWks v).ram = s.ram := rfl
@[simp] theorem State.setWks_rom : (s.setWks v).rom = s.rom := rfl
@[simp] theorem State.setWks_latch : (s.setWks v).latch = s.latch := rfl
@[simp] theorem State.setWks_cmd : (s.setWks v).cmd = s.cmd := rfl
@[simp] theorem State.setWks_htc : (s.setWks v).htc = s.htc := rfl
@[simp] theorem State.setWks_mode : (s.setWks v).mode = s.mode := rfl
@[simp] theorem State.setWks_wks : (s.setWks v).wks = v := rfl
@[simp] theorem State.setWks_lfs : (s.setWks v).lfs = s.lfs := rfl
@[simp] theorem State.setWks_lcdPower : (s.setWks v).lcdPower = s.lcdPower := rfl
@[simp] theorem State.setWks_wdtCount : (s.setWks v).wdtCount = s.wdtCount := rfl
@[simp] theorem State.setWks_pins : (s.setWks v).pins = s.pins := rfl
@[simp] theorem State.setWks_schedule : (s.setWks v).schedule = s.schedule := rfl
@[simp] theorem State.setWks_opts : (s.setWks v).opts = s.opts := rfl
@[simp] theorem State.setWks_draws : (s.setWks v).draws = s.draws := rfl
end

section
variable (s : State) (v : Bool)
@[simp] theorem State.setLfs_acc : (s.setLfs v).acc = s.acc := rfl
@[simp] theorem State.setLfs_hr : (s.setLfs v).hr = s.hr := rfl
@[simp] theorem State.setLfs_lr : (s.setLfs v).lr = s.lr := rfl
@[simp] theorem State.setLfs_pc : (s.setLfs v).pc = s.pc := rfl
@[simp] theorem State.setLfs_cf : (s.setLfs v).cf = s.cf := rfl
@[simp] theorem State.setLfs_zf : (s.setLfs v).zf = s.zf := rfl
@[simp] theorem State.setLfs_sf : (s.setLfs v).sf = s.sf := rfl
@[simp] theorem State.setLfs_sp : (s.setLfs v).sp = s.sp := rfl
@[simp] theorem State.setLfs_dp : (s.setLfs v).dp = s.dp := rfl
@[simp] theorem State.setLfs_ta : (s.setLfs v).ta = s.ta := rfl
@[simp] theorem State.setLfs_tb : (s.setLfs v).tb = s.tb := rfl
@[simp] theorem State.setLfs_stack : (s.setLfs v).stack = s.stack := rfl
@[simp] theorem State.setLfs_ei : (s.setLfs v).ei = s.ei := rfl
@[simp] theorem State.setLfs_mask : (s.setLfs v).mask = s.mask := rfl
@[simp] theorem State.setLfs_il : (s.setLfs v).il = s.il := rfl
@[simp] theorem State.setLfs_ram : (s.setLfs v).ram = s.ram := rfl
@[simp] theorem State.setLfs_rom : (s.setLfs v).rom = s.rom := rfl
@[simp] theorem State.setLfs_latch : (s.setLfs v).latch = s.latch := rfl
@[simp] theorem State.setLfs_cmd : (s.setLfs v).cmd = s.cmd := rfl
@[simp] theorem State.setLfs_htc : (s.setLfs v).htc = s.htc := rfl
@[simp] theorem State.setLfs_mode : (s.setLfs v).mode = s.mode := rfl
@[simp] theorem State.setLfs_wks : (s.setLfs v).wks = s.wks := rfl
@[simp] theorem State.setLfs_lfs : (s.setLfs v).lfs = v := rfl
@[simp] theorem State.setLfs_lcdPower : (s.setLfs v).lcdPower = s.lcdPower := rfl
@[simp] theorem State.setLfs_wdtCount : (s.setLfs v).wdtCount = s.wdtCount := rfl
@[simp] theorem State.setLfs_pins : (s.setLfs v).pins = s.pins := rfl
@[simp] theorem State.setLfs_schedule : (s.setLfs v).schedule = s.schedule := rfl
@[simp] theorem State.setLfs_opts : (s.setLfs v).opts = s.opts := rfl
@[simp] theorem State.setLfs_draws : (s.setLfs v).draws = s.draws := rfl
end

section
variable (s : State) (v : Bool)
@[simp] theorem State.setLcdPower_acc : (s.setLcdPower v).acc = s.acc := rfl
@[simp] theorem State.setLcdPower_hr : (s.setLcdPower v).hr = s.hr := rfl
@[simp] theorem State.setLcdPower_lr : (s.setLcdPower v).lr = s.lr := rfl
@[simp] theorem State.setLcdPower_pc : (s.setLcdPower v).pc = s.pc := rfl
@[simp] theorem State.setLcdPower_cf : (s.setLcdPower v).cf = s.cf := rfl
@[simp] theorem State.setLcdPower_zf : (s.setLcdPower v).zf = s.zf := rfl
@[simp] theorem State.setLcdPower_sf : (s.setLcdPower v).sf = s.sf := rfl
@[simp] theorem State.setLcdPower_sp : (s.setLcdPower v).sp = s.sp := rfl
@[simp] theorem State.setLcdPower_dp : (s.setLcdPower v).dp = s.dp := rfl
@[simp] theorem State.setLcdPower_ta : (s.setLcdPower v).ta = s.ta := rfl
@[simp] theorem State.setLcdPower_tb : (s.setLcdPower v).tb = s.tb := rfl
@[simp] theorem State.setLcdPower_stack : (s.setLcdPower v).stack = s.stack := rfl
@[simp] theorem State.setLcdPower_ei : (s.setLcdPower v).ei = s.ei := rfl
@[simp] theorem State.setLcdPower_mask : (s.setLcdPower v).mask = s.mask := rfl
@[simp] theorem State.setLcdPower_il : (s.setLcdPower v).il = s.il := rfl
@[simp] theorem State.setLcdPower_ram : (s.setLcdPower v).ram = s.ram := rfl
@[simp] theorem State.setLcdPower_rom : (s.setLcdPower v).rom = s.rom := rfl
@[simp] theorem State.setLcdPower_latch : (s.setLcdPower v).latch = s.latch := rfl
@[simp] theorem State.setLcdPower_cmd : (s.setLcdPower v).cmd = s.cmd := rfl
@[simp] theorem State.setLcdPower_htc : (s.setLcdPower v).htc = s.htc := rfl
@[simp] theorem State.setLcdPower_mode : (s.setLcdPower v).mode = s.mode := rfl
@[simp] theorem State.setLcdPower_wks : (s.setLcdPower v).wks = s.wks := rfl
@[simp] theorem State.setLcdPower_lfs : (s.setLcdPower v).lfs = s.lfs := rfl
@[simp] theorem State.setLcdPower_lcdPower : (s.setLcdPower v).lcdPower = v := rfl
@[simp] theorem State.setLcdPower_wdtCount : (s.setLcdPower v).wdtCount = s.wdtCount := rfl
@[simp] theorem State.setLcdPower_pins : (s.setLcdPower v).pins = s.pins := rfl
@[simp] theorem State.setLcdPower_schedule : (s.setLcdPower v).schedule = s.schedule := rfl
@[simp] theorem State.setLcdPower_opts : (s.setLcdPower v).opts = s.opts := rfl
@[simp] theorem State.setLcdPower_draws : (s.setLcdPower v).draws = s.draws := rfl
end

section
variable (s : State) (v : BitVec 4)
@[simp] theorem State.setWdtCount_acc : (s.setWdtCount v).acc = s.acc := rfl
@[simp] theorem State.setWdtCount_hr : (s.setWdtCount v).hr = s.hr := rfl
@[simp] theorem State.setWdtCount_lr : (s.setWdtCount v).lr = s.lr := rfl
@[simp] theorem State.setWdtCount_pc : (s.setWdtCount v).pc = s.pc := rfl
@[simp] theorem State.setWdtCount_cf : (s.setWdtCount v).cf = s.cf := rfl
@[simp] theorem State.setWdtCount_zf : (s.setWdtCount v).zf = s.zf := rfl
@[simp] theorem State.setWdtCount_sf : (s.setWdtCount v).sf = s.sf := rfl
@[simp] theorem State.setWdtCount_sp : (s.setWdtCount v).sp = s.sp := rfl
@[simp] theorem State.setWdtCount_dp : (s.setWdtCount v).dp = s.dp := rfl
@[simp] theorem State.setWdtCount_ta : (s.setWdtCount v).ta = s.ta := rfl
@[simp] theorem State.setWdtCount_tb : (s.setWdtCount v).tb = s.tb := rfl
@[simp] theorem State.setWdtCount_stack : (s.setWdtCount v).stack = s.stack := rfl
@[simp] theorem State.setWdtCount_ei : (s.setWdtCount v).ei = s.ei := rfl
@[simp] theorem State.setWdtCount_mask : (s.setWdtCount v).mask = s.mask := rfl
@[simp] theorem State.setWdtCount_il : (s.setWdtCount v).il = s.il := rfl
@[simp] theorem State.setWdtCount_ram : (s.setWdtCount v).ram = s.ram := rfl
@[simp] theorem State.setWdtCount_rom : (s.setWdtCount v).rom = s.rom := rfl
@[simp] theorem State.setWdtCount_latch : (s.setWdtCount v).latch = s.latch := rfl
@[simp] theorem State.setWdtCount_cmd : (s.setWdtCount v).cmd = s.cmd := rfl
@[simp] theorem State.setWdtCount_htc : (s.setWdtCount v).htc = s.htc := rfl
@[simp] theorem State.setWdtCount_mode : (s.setWdtCount v).mode = s.mode := rfl
@[simp] theorem State.setWdtCount_wks : (s.setWdtCount v).wks = s.wks := rfl
@[simp] theorem State.setWdtCount_lfs : (s.setWdtCount v).lfs = s.lfs := rfl
@[simp] theorem State.setWdtCount_lcdPower : (s.setWdtCount v).lcdPower = s.lcdPower := rfl
@[simp] theorem State.setWdtCount_wdtCount : (s.setWdtCount v).wdtCount = v := rfl
@[simp] theorem State.setWdtCount_pins : (s.setWdtCount v).pins = s.pins := rfl
@[simp] theorem State.setWdtCount_schedule : (s.setWdtCount v).schedule = s.schedule := rfl
@[simp] theorem State.setWdtCount_opts : (s.setWdtCount v).opts = s.opts := rfl
@[simp] theorem State.setWdtCount_draws : (s.setWdtCount v).draws = s.draws := rfl
end

section
variable (s : State) (v : Pins)
@[simp] theorem State.setPins_acc : (s.setPins v).acc = s.acc := rfl
@[simp] theorem State.setPins_hr : (s.setPins v).hr = s.hr := rfl
@[simp] theorem State.setPins_lr : (s.setPins v).lr = s.lr := rfl
@[simp] theorem State.setPins_pc : (s.setPins v).pc = s.pc := rfl
@[simp] theorem State.setPins_cf : (s.setPins v).cf = s.cf := rfl
@[simp] theorem State.setPins_zf : (s.setPins v).zf = s.zf := rfl
@[simp] theorem State.setPins_sf : (s.setPins v).sf = s.sf := rfl
@[simp] theorem State.setPins_sp : (s.setPins v).sp = s.sp := rfl
@[simp] theorem State.setPins_dp : (s.setPins v).dp = s.dp := rfl
@[simp] theorem State.setPins_ta : (s.setPins v).ta = s.ta := rfl
@[simp] theorem State.setPins_tb : (s.setPins v).tb = s.tb := rfl
@[simp] theorem State.setPins_stack : (s.setPins v).stack = s.stack := rfl
@[simp] theorem State.setPins_ei : (s.setPins v).ei = s.ei := rfl
@[simp] theorem State.setPins_mask : (s.setPins v).mask = s.mask := rfl
@[simp] theorem State.setPins_il : (s.setPins v).il = s.il := rfl
@[simp] theorem State.setPins_ram : (s.setPins v).ram = s.ram := rfl
@[simp] theorem State.setPins_rom : (s.setPins v).rom = s.rom := rfl
@[simp] theorem State.setPins_latch : (s.setPins v).latch = s.latch := rfl
@[simp] theorem State.setPins_cmd : (s.setPins v).cmd = s.cmd := rfl
@[simp] theorem State.setPins_htc : (s.setPins v).htc = s.htc := rfl
@[simp] theorem State.setPins_mode : (s.setPins v).mode = s.mode := rfl
@[simp] theorem State.setPins_wks : (s.setPins v).wks = s.wks := rfl
@[simp] theorem State.setPins_lfs : (s.setPins v).lfs = s.lfs := rfl
@[simp] theorem State.setPins_lcdPower : (s.setPins v).lcdPower = s.lcdPower := rfl
@[simp] theorem State.setPins_wdtCount : (s.setPins v).wdtCount = s.wdtCount := rfl
@[simp] theorem State.setPins_pins : (s.setPins v).pins = v := rfl
@[simp] theorem State.setPins_schedule : (s.setPins v).schedule = s.schedule := rfl
@[simp] theorem State.setPins_opts : (s.setPins v).opts = s.opts := rfl
@[simp] theorem State.setPins_draws : (s.setPins v).draws = s.draws := rfl
end

section
variable (s : State) (v : List Event)
@[simp] theorem State.setSchedule_acc : (s.setSchedule v).acc = s.acc := rfl
@[simp] theorem State.setSchedule_hr : (s.setSchedule v).hr = s.hr := rfl
@[simp] theorem State.setSchedule_lr : (s.setSchedule v).lr = s.lr := rfl
@[simp] theorem State.setSchedule_pc : (s.setSchedule v).pc = s.pc := rfl
@[simp] theorem State.setSchedule_cf : (s.setSchedule v).cf = s.cf := rfl
@[simp] theorem State.setSchedule_zf : (s.setSchedule v).zf = s.zf := rfl
@[simp] theorem State.setSchedule_sf : (s.setSchedule v).sf = s.sf := rfl
@[simp] theorem State.setSchedule_sp : (s.setSchedule v).sp = s.sp := rfl
@[simp] theorem State.setSchedule_dp : (s.setSchedule v).dp = s.dp := rfl
@[simp] theorem State.setSchedule_ta : (s.setSchedule v).ta = s.ta := rfl
@[simp] theorem State.setSchedule_tb : (s.setSchedule v).tb = s.tb := rfl
@[simp] theorem State.setSchedule_stack : (s.setSchedule v).stack = s.stack := rfl
@[simp] theorem State.setSchedule_ei : (s.setSchedule v).ei = s.ei := rfl
@[simp] theorem State.setSchedule_mask : (s.setSchedule v).mask = s.mask := rfl
@[simp] theorem State.setSchedule_il : (s.setSchedule v).il = s.il := rfl
@[simp] theorem State.setSchedule_ram : (s.setSchedule v).ram = s.ram := rfl
@[simp] theorem State.setSchedule_rom : (s.setSchedule v).rom = s.rom := rfl
@[simp] theorem State.setSchedule_latch : (s.setSchedule v).latch = s.latch := rfl
@[simp] theorem State.setSchedule_cmd : (s.setSchedule v).cmd = s.cmd := rfl
@[simp] theorem State.setSchedule_htc : (s.setSchedule v).htc = s.htc := rfl
@[simp] theorem State.setSchedule_mode : (s.setSchedule v).mode = s.mode := rfl
@[simp] theorem State.setSchedule_wks : (s.setSchedule v).wks = s.wks := rfl
@[simp] theorem State.setSchedule_lfs : (s.setSchedule v).lfs = s.lfs := rfl
@[simp] theorem State.setSchedule_lcdPower : (s.setSchedule v).lcdPower = s.lcdPower := rfl
@[simp] theorem State.setSchedule_wdtCount : (s.setSchedule v).wdtCount = s.wdtCount := rfl
@[simp] theorem State.setSchedule_pins : (s.setSchedule v).pins = s.pins := rfl
@[simp] theorem State.setSchedule_schedule : (s.setSchedule v).schedule = v := rfl
@[simp] theorem State.setSchedule_opts : (s.setSchedule v).opts = s.opts := rfl
@[simp] theorem State.setSchedule_draws : (s.setSchedule v).draws = s.draws := rfl
end

section
variable (s : State) (v : Nat)
@[simp] theorem State.setDraws_acc : (s.setDraws v).acc = s.acc := rfl
@[simp] theorem State.setDraws_hr : (s.setDraws v).hr = s.hr := rfl
@[simp] theorem State.setDraws_lr : (s.setDraws v).lr = s.lr := rfl
@[simp] theorem State.setDraws_pc : (s.setDraws v).pc = s.pc := rfl
@[simp] theorem State.setDraws_cf : (s.setDraws v).cf = s.cf := rfl
@[simp] theorem State.setDraws_zf : (s.setDraws v).zf = s.zf := rfl
@[simp] theorem State.setDraws_sf : (s.setDraws v).sf = s.sf := rfl
@[simp] theorem State.setDraws_sp : (s.setDraws v).sp = s.sp := rfl
@[simp] theorem State.setDraws_dp : (s.setDraws v).dp = s.dp := rfl
@[simp] theorem State.setDraws_ta : (s.setDraws v).ta = s.ta := rfl
@[simp] theorem State.setDraws_tb : (s.setDraws v).tb = s.tb := rfl
@[simp] theorem State.setDraws_stack : (s.setDraws v).stack = s.stack := rfl
@[simp] theorem State.setDraws_ei : (s.setDraws v).ei = s.ei := rfl
@[simp] theorem State.setDraws_mask : (s.setDraws v).mask = s.mask := rfl
@[simp] theorem State.setDraws_il : (s.setDraws v).il = s.il := rfl
@[simp] theorem State.setDraws_ram : (s.setDraws v).ram = s.ram := rfl
@[simp] theorem State.setDraws_rom : (s.setDraws v).rom = s.rom := rfl
@[simp] theorem State.setDraws_latch : (s.setDraws v).latch = s.latch := rfl
@[simp] theorem State.setDraws_cmd : (s.setDraws v).cmd = s.cmd := rfl
@[simp] theorem State.setDraws_htc : (s.setDraws v).htc = s.htc := rfl
@[simp] theorem State.setDraws_mode : (s.setDraws v).mode = s.mode := rfl
@[simp] theorem State.setDraws_wks : (s.setDraws v).wks = s.wks := rfl
@[simp] theorem State.setDraws_lfs : (s.setDraws v).lfs = s.lfs := rfl
@[simp] theorem State.setDraws_lcdPower : (s.setDraws v).lcdPower = s.lcdPower := rfl
@[simp] theorem State.setDraws_wdtCount : (s.setDraws v).wdtCount = s.wdtCount := rfl
@[simp] theorem State.setDraws_pins : (s.setDraws v).pins = s.pins := rfl
@[simp] theorem State.setDraws_schedule : (s.setDraws v).schedule = s.schedule := rfl
@[simp] theorem State.setDraws_opts : (s.setDraws v).opts = s.opts := rfl
@[simp] theorem State.setDraws_draws : (s.setDraws v).draws = v := rfl
end

end Sys2Proof.Machine
end

