-- ==== Sys2Proof/Laws/Memory.lean ====
section
/-! SUPPORT. The laws of sparse memory: a read after a write, the canonical form, and the same for the
nibbles of data memory, where some may belong to stack levels. -/

namespace Sys2Proof.Machine

open Sys2Proof.Config

variable {w : Nat}

/-! ### Reads -/

@[simp] theorem Memory.read_nil (a : Nat) : Memory.read ([] : List (Nat × BitVec w)) a = 0#w := rfl

theorem Memory.read_cons (k : Nat) (v : BitVec w) (m : List (Nat × BitVec w)) (a : Nat) :
    Memory.read ((k, v) :: m) a = if k = a then v else Memory.read m a := rfl

theorem Memory.read_erase_same (m : List (Nat × BitVec w)) (a : Nat) :
    Memory.read (Memory.erase m a) a = 0#w := by
  induction m with
  | nil => rfl
  | cons c m ih =>
    obtain ⟨k, v⟩ := c
    by_cases h : k = a <;> simp [Memory.erase, h, ih, Memory.read]

theorem Memory.read_erase_other (m : List (Nat × BitVec w)) {a b : Nat} (h : b ≠ a) :
    Memory.read (Memory.erase m a) b = Memory.read m b := by
  induction m with
  | nil => rfl
  | cons c m ih =>
    obtain ⟨k, v⟩ := c
    by_cases hk : k = a
    · simp [Memory.erase, hk, ih, Memory.read, Ne.symm h]
    · simp [Memory.erase, hk, ih, Memory.read]

theorem Memory.read_insert (m : List (Nat × BitVec w)) (a : Nat) (v : BitVec w) (b : Nat)
    (h : Memory.read m a = 0#w ∧ ∀ c ∈ m, c.1 ≠ a) :
    Memory.read (Memory.insert m a v) b = if a = b then v else Memory.read m b := by
  induction m with
  | nil => simp [Memory.insert, Memory.read]
  | cons c m ih =>
    obtain ⟨k, x⟩ := c
    have hk : k ≠ a := h.2 (k, x) (by simp)
    have hm : Memory.read m a = 0#w := by
      have := h.1
      rwa [Memory.read_cons, if_neg hk] at this
    have ih := ih ⟨hm, fun c hc => h.2 c (by simp [hc])⟩
    by_cases hl : a < k
    · simp [Memory.insert, hl, Memory.read]
    · simp only [Memory.insert, if_neg hl, Memory.read_cons, ih]
      by_cases hkb : k = b
      · simp [hkb, show a ≠ b from fun e => hk (hkb.trans e.symm)]
      · simp [hkb]

theorem Memory.erase_keys (m : List (Nat × BitVec w)) (a : Nat) :
    ∀ c ∈ Memory.erase m a, c ∈ m ∧ c.1 ≠ a := by
  induction m with
  | nil => simp [Memory.erase]
  | cons c m ih =>
    obtain ⟨k, v⟩ := c
    intro d hd
    by_cases h : k = a
    · rw [Memory.erase, if_pos h] at hd
      exact ⟨by simp [(ih d hd).1], (ih d hd).2⟩
    · rw [Memory.erase, if_neg h, List.mem_cons] at hd
      rcases hd with rfl | hd
      · exact ⟨by simp, h⟩
      · exact ⟨by simp [(ih d hd).1], (ih d hd).2⟩

/-- A read after a write to the same address gives the value written. -/
@[simp] theorem Memory.read_write_same (m : List (Nat × BitVec w)) (a : Nat) (v : BitVec w) :
    Memory.read (Memory.write m a v) a = v := by
  unfold Memory.write
  split
  · next h => rw [Memory.read_erase_same]; exact h.symm
  · rw [Memory.read_insert _ _ _ _ ⟨Memory.read_erase_same m a, fun c hc => (Memory.erase_keys m a c hc).2⟩]
    simp

/-- A write leaves every other address alone. -/
theorem Memory.read_write_other (m : List (Nat × BitVec w)) {a b : Nat} (v : BitVec w) (h : b ≠ a) :
    Memory.read (Memory.write m a v) b = Memory.read m b := by
  unfold Memory.write
  split
  · exact Memory.read_erase_other m h
  · rw [Memory.read_insert _ _ _ _ ⟨Memory.read_erase_same m a, fun c hc => (Memory.erase_keys m a c hc).2⟩,
      if_neg (Ne.symm h), Memory.read_erase_other m h]

/-! ### The canonical form -/

theorem Memory.wf_cons (ok : Nat → Bool) (k : Nat) (v : BitVec w) (m : List (Nat × BitVec w)) :
    Memory.wf ok ((k, v) :: m) = true ↔
      ok k = true ∧ v ≠ 0#w ∧ (∀ c ∈ m, k < c.1) ∧ Memory.wf ok m = true := by
  simp [Memory.wf, Memory.blank, and_assoc]

theorem Memory.wf_erase (ok : Nat → Bool) (m : List (Nat × BitVec w)) (a : Nat)
    (h : Memory.wf ok m = true) : Memory.wf ok (Memory.erase m a) = true := by
  induction m with
  | nil => rfl
  | cons c m ih =>
    obtain ⟨k, v⟩ := c
    rw [Memory.wf_cons] at h
    unfold Memory.erase
    split
    · exact ih h.2.2.2
    · rw [Memory.wf_cons]
      exact ⟨h.1, h.2.1, fun c hc => h.2.2.1 c (Memory.erase_keys m a c hc).1, ih h.2.2.2⟩

theorem Memory.insert_keys (m : List (Nat × BitVec w)) (a : Nat) (v : BitVec w) :
    ∀ c ∈ Memory.insert m a v, c = (a, v) ∨ c ∈ m := by
  induction m with
  | nil => simp [Memory.insert]
  | cons c m ih =>
    obtain ⟨k, x⟩ := c
    intro d hd
    by_cases h : a < k
    · simpa [Memory.insert, h] using hd
    · rw [Memory.insert, if_neg h, List.mem_cons] at hd
      rcases hd with rfl | hd
      · simp
      · rcases ih d hd with h | h
        · exact .inl h
        · simp [h]

theorem Memory.wf_insert (ok : Nat → Bool) (m : List (Nat × BitVec w)) (a : Nat) (v : BitVec w)
    (h : Memory.wf ok m = true) (ha : ok a = true) (hv : v ≠ 0#w) (hm : ∀ c ∈ m, c.1 ≠ a) :
    Memory.wf ok (Memory.insert m a v) = true := by
  induction m with
  | nil => exact (Memory.wf_cons ok a v []).2 ⟨ha, hv, by simp, rfl⟩
  | cons c m ih =>
    obtain ⟨k, x⟩ := c
    have hw := (Memory.wf_cons ok k x m).1 h
    by_cases hl : a < k
    · rw [Memory.insert, if_pos hl, Memory.wf_cons]
      refine ⟨ha, hv, fun c hc => ?_, h⟩
      rcases List.mem_cons.1 hc with rfl | hc
      · exact hl
      · exact hl.trans (hw.2.2.1 c hc)
    · have hk : k ≠ a := hm (k, x) (by simp)
      rw [Memory.insert, if_neg hl, Memory.wf_cons]
      refine ⟨hw.1, hw.2.1, fun c hc => ?_, ih hw.2.2.2 fun c hc => hm c (by simp [hc])⟩
      rcases Memory.insert_keys m a v c hc with rfl | hc
      · exact lt_of_le_of_ne (not_lt.1 hl) hk
      · exact hw.2.2.1 c hc

/-- A write to an address of the memory keeps the canonical form. -/
theorem Memory.wf_write (ok : Nat → Bool) (m : List (Nat × BitVec w)) (a : Nat) (v : BitVec w)
    (h : Memory.wf ok m = true) (ha : ok a = true) : Memory.wf ok (Memory.write m a v) = true := by
  unfold Memory.write
  split
  · exact Memory.wf_erase ok m a h
  · next hv =>
    exact Memory.wf_insert ok _ a v (Memory.wf_erase ok m a h) ha hv
      (fun c hc => (Memory.erase_keys m a c hc).2)

/-- The canonical form lists no address that the memory does not have. -/
theorem Memory.wf_keys (ok : Nat → Bool) (m : List (Nat × BitVec w)) (h : Memory.wf ok m = true) :
    ∀ c ∈ m, ok c.1 = true ∧ c.2 ≠ 0#w := by
  induction m with
  | nil => simp
  | cons c m ih =>
    obtain ⟨k, v⟩ := c
    have hw := (Memory.wf_cons ok k v m).1 h
    intro d hd
    rcases List.mem_cons.1 hd with rfl | hd
    · exact ⟨hw.1, hw.2.1⟩
    · exact ih hw.2.2.2 d hd

/-- An address below every listed one reads as blank. -/
theorem Memory.read_eq_blank (m : List (Nat × BitVec w)) (a : Nat) (h : ∀ c ∈ m, a < c.1) :
    Memory.read m a = 0#w := by
  induction m with
  | nil => rfl
  | cons c m ih =>
    obtain ⟨k, v⟩ := c
    have hk : a < k := h (k, v) (by simp)
    rw [Memory.read_cons, if_neg (by omega), ih fun c hc => h c (by simp [hc])]

/-- Two canonical memories that read alike everywhere are the same list. -/
theorem Memory.ext_of_wf (ok : Nat → Bool) (m n : List (Nat × BitVec w)) (hm : Memory.wf ok m = true)
    (hn : Memory.wf ok n = true) (h : ∀ a, Memory.read m a = Memory.read n a) : m = n := by
  induction m generalizing n with
  | nil =>
    cases n with
    | nil => rfl
    | cons d n =>
      obtain ⟨l, y⟩ := d
      have hy := ((Memory.wf_cons ok l y n).1 hn).2.1
      exact absurd (by simpa [Memory.read_cons] using (h l).symm) hy
  | cons c m ih =>
    obtain ⟨k, x⟩ := c
    have wm := (Memory.wf_cons ok k x m).1 hm
    cases n with
    | nil => exact absurd (by simpa [Memory.read_cons] using h k) wm.2.1
    | cons d n =>
      obtain ⟨l, y⟩ := d
      have wn := (Memory.wf_cons ok l y n).1 hn
      have hkl : k = l := by
        by_contra hne
        rcases lt_or_gt_of_ne hne with hlt | hlt
        · refine wm.2.1 ?_
          have := h k
          rw [Memory.read_cons, if_pos rfl, Memory.read_cons, if_neg (Ne.symm hne),
            Memory.read_eq_blank n k fun c hc => hlt.trans (wn.2.2.1 c hc)] at this
          exact this
        · refine wn.2.1 ?_
          have := h l
          rw [Memory.read_cons, if_neg hne, Memory.read_cons, if_pos rfl,
            Memory.read_eq_blank m l fun c hc => hlt.trans (wm.2.2.1 c hc)] at this
          exact this.symm
      subst hkl
      have hxy : x = y := by simpa [Memory.read_cons] using h k
      subst hxy
      rw [ih n wm.2.2.2 wn.2.2.2 fun a => ?_]
      have := h a
      rw [Memory.read_cons, Memory.read_cons] at this
      by_cases hka : k = a
      · subst hka
        rw [Memory.read_eq_blank m k wm.2.2.1, Memory.read_eq_blank n k wn.2.2.1]
      · rwa [if_neg hka, if_neg hka] at this

/-- The memory of the machine after reset is canonical. -/
theorem reset_memory_wf :
    Memory.wf isRamAddr State.reset.ram = true ∧ Memory.wf isRomAddr State.reset.rom = true :=
  ⟨rfl, rfl⟩

/-- ROM bytes placed from outside keep the canonical form. -/
theorem placeRom_wf (rom : List Host.Cell) (a : RomAddr) (bs : List Byte)
    (h : Memory.wf isRomAddr rom = true) : Memory.wf isRomAddr (placeRom rom a bs) = true := by
  induction bs generalizing rom a with
  | nil => exact h
  | cons b bs ih =>
    refine ih _ _ (Memory.wf_write _ _ _ _ h ?_)
    have := a.isLt
    simp [isRomAddr]
    omega

/-! ### Stack levels as nibbles -/

theorem StackEntry.toBits_getLsbD (e : StackEntry) (i : Nat) :
    e.toBits.getLsbD i =
      if i < 13 then e.pc.getLsbD i
      else if i = 13 then e.sf else if i = 14 then e.zf else if i = 15 then e.cf else false := by
  unfold StackEntry.toBits
  simp only [BitVec.getLsbD_append, BitVec.getLsbD_ofBool]
  by_cases h : i < 13
  · simp [h]
  · by_cases h3 : i = 13
    · subst h3; simp
    · by_cases h4 : i = 14
      · subst h4; simp
      · by_cases h5 : i = 15
        · subst h5; simp
        · have h16 : 16 ≤ i := by omega
          simp only [h, h3, h4, h5, if_false]
          have e1 : ¬ (i - 13 < 1) := by omega
          have e2 : ¬ (i - 13 - 1 < 1) := by omega
          simp [e1, e2]
          omega

/-- The bits of a level hold all of it. -/
@[simp] theorem StackEntry.ofBits_toBits (e : StackEntry) : StackEntry.ofBits e.toBits = e := by
  obtain ⟨c, z, s, p⟩ := e
  simp only [StackEntry.ofBits, StackEntry.mk.injEq, StackEntry.toBits_getLsbD]
  refine ⟨rfl, rfl, rfl, ?_⟩
  apply BitVec.eq_of_getLsbD_eq
  intro i hi
  simp [StackEntry.toBits_getLsbD, hi]

@[simp] theorem StackEntry.toBits_ofBits (v : BitVec 16) : (StackEntry.ofBits v).toBits = v := by
  apply BitVec.eq_of_getLsbD_eq
  intro i hi
  rw [StackEntry.toBits_getLsbD]
  by_cases h : i < 13
  · simp [StackEntry.ofBits, h]
  · have : i = 13 ∨ i = 14 ∨ i = 15 := by omega
    rcases this with rfl | rfl | rfl <;> simp [StackEntry.ofBits]

theorem StackEntry.nibble_getLsbD (e : StackEntry) (q : Fin 4) (i : Nat) (hi : i < 4) :
    (e.nibble q).getLsbD i = e.toBits.getLsbD (4 * q.val + i) := by
  simp [StackEntry.nibble, hi]

theorem StackEntry.setNibble_getLsbD (e : StackEntry) (q : Fin 4) (v : Nibble) (i : Nat) (hi : i < 16) :
    (e.setNibble q v).toBits.getLsbD i =
      if i / 4 = q.val then v.getLsbD (i - 4 * q.val) else e.toBits.getLsbD i := by
  simp only [StackEntry.setNibble, StackEntry.toBits_ofBits]
  generalize e.toBits = b
  revert i
  fin_cases q <;> intro i hi <;> interval_cases i <;> simp

/-- The nibble written into a level is read back. -/
@[simp] theorem StackEntry.nibble_setNibble_same (e : StackEntry) (q : Fin 4) (v : Nibble) :
    (e.setNibble q v).nibble q = v := by
  apply BitVec.eq_of_getLsbD_eq
  intro i hi
  rw [StackEntry.nibble_getLsbD _ _ _ hi, StackEntry.setNibble_getLsbD _ _ _ _ (by omega),
    if_pos (by omega), Nat.add_sub_cancel_left]

/-- The other nibbles of the level stay. -/
theorem StackEntry.nibble_setNibble_other (e : StackEntry) {q r : Fin 4} (v : Nibble) (h : r ≠ q) :
    (e.setNibble q v).nibble r = e.nibble r := by
  apply BitVec.eq_of_getLsbD_eq
  intro i hi
  have : r.val ≠ q.val := fun e => h (Fin.ext e)
  rw [StackEntry.nibble_getLsbD _ _ _ hi, StackEntry.nibble_getLsbD _ _ _ hi,
    StackEntry.setNibble_getLsbD _ _ _ _ (by omega), if_neg (by omega)]

/-! ### One nibble of data memory -/

theorem idxOf?_inj {l : List DataAddr} {a b : DataAddr} {i : Nat} (ha : l.idxOf? a = some i)
    (hb : l.idxOf? b = some i) : a = b := by
  induction l generalizing i with
  | nil => simp [List.idxOf?] at ha
  | cons c l ih =>
    simp only [List.idxOf?_cons] at ha hb
    by_cases hca : c = a <;> by_cases hcb : c = b
    · exact hca.symm.trans hcb
    · simp only [beq_iff_eq, hca, if_true, Option.some.injEq] at ha
      simp only [beq_iff_eq, hcb, if_false, Option.map_eq_some_iff] at hb
      obtain ⟨y, -, hy⟩ := hb
      omega
    · simp only [beq_iff_eq, hcb, if_true, Option.some.injEq] at hb
      simp only [beq_iff_eq, hca, if_false, Option.map_eq_some_iff] at ha
      obtain ⟨y, -, hy⟩ := ha
      omega
    · simp only [beq_iff_eq, hca, hcb, if_false, Option.map_eq_some_iff] at ha hb
      obtain ⟨x, hx, rfl⟩ := ha
      obtain ⟨y, hy, hxy⟩ := hb
      obtain rfl : y = x := by omega
      exact ih hx hy

/-- Two addresses that name the same nibble of the same level are one address. -/
theorem State.stackSlot_inj (s : State) {a b : DataAddr} {l : Fin 13} {q : Fin 4}
    (ha : s.stackSlot a = some (l, q)) (hb : s.stackSlot b = some (l, q)) : a = b := by
  have key : ∀ c, s.stackSlot c = some (l, q) →
      (s.opts.stackMap.getD []).idxOf? c = some (4 * l.val + q.val) := by
    intro c hc
    unfold State.stackSlot at hc
    cases hi : (s.opts.stackMap.getD []).idxOf? c with
    | none => rw [hi] at hc; simp at hc
    | some i =>
      rw [hi] at hc
      simp only at hc
      split at hc
      · simp only [Option.some.injEq, Prod.mk.injEq, Fin.ext_iff] at hc
        obtain ⟨h1, h2⟩ := hc
        rw [← h1, ← h2]
        congr 1
        omega
      · simp at hc
  exact idxOf?_inj (key a ha) (key b hb)

/-- Where `STACK_RAM_MAP` is unset no RAM address is known to hold a piece of the stack. -/
theorem State.stackSlot_of_unset (s : State) (h : s.opts.stackMap = none) (a : DataAddr) :
    s.stackSlot a = none := by
  simp [State.stackSlot, h]

theorem State.stackSlot_of_unvouched (s : State) {a : DataAddr} (h : s.unvouched a = true) (b : DataAddr) :
    s.stackSlot b = none := by
  simp only [State.unvouched, Bool.and_eq_true, Option.isNone_iff_eq_none] at h
  exact s.stackSlot_of_unset h.1 b

/-- With `STACK_RAM_MAP` given, the model vouches for every address. -/
theorem State.unvouched_of_set (s : State) {l : List DataAddr} (h : s.opts.stackMap = some l) (a : DataAddr) :
    s.unvouched a = false := by
  simp [State.unvouched, h]

/-- Outside 0C0h to 0F3h the model vouches for every address. -/
theorem State.unvouched_of_place (s : State) {a : DataAddr} (h : mayHoldStack a = false) :
    s.unvouched a = false := by
  simp [State.unvouched, h]

/-- What a store to data memory can do, in all places a nibble may lie. -/
theorem State.poke_eq (s : State) (a : DataAddr) (v : Nibble) :
    s.poke a v = { s with ram := (s.poke a v).ram, stack := (s.poke a v).stack } := by
  unfold State.poke
  split
  · rfl
  · split <;> rfl

theorem State.poke_of_unvouched (s : State) {a : DataAddr} (v : Nibble) (h : s.unvouched a = true) :
    s.poke a v = s.setStack (Vector.ofFn fun l => .ofBits (stackStores s.stackBits a v l.val)) := by
  unfold State.poke; rw [if_pos h]

theorem State.poke_of_none (s : State) {a : DataAddr} (v : Nibble) (hu : s.unvouched a = false)
    (h : s.stackSlot a = none) : s.poke a v = s.setRam (Memory.write s.ram a.toNat v) := by
  unfold State.poke; rw [hu, h]; rfl

theorem State.poke_of_some (s : State) {a : DataAddr} (v : Nibble) {l : Fin 13} {q : Fin 4}
    (h : s.stackSlot a = some (l, q)) :
    s.poke a v = s.setStack (s.stack.set l.val ((s.stack[l.val]).setNibble q v)) := by
  have hu : s.unvouched a = false := by
    by_contra hu
    rw [s.stackSlot_of_unvouched (by simpa using hu) a] at h
    cases h
  unfold State.poke; rw [hu, h]; rfl

@[simp] theorem State.poke_stackSlot (s : State) (a b : DataAddr) (v : Nibble) :
    (s.poke a v).stackSlot b = s.stackSlot b := by
  rw [State.poke_eq]; rfl

@[simp] theorem State.poke_unvouched (s : State) (a b : DataAddr) (v : Nibble) :
    (s.poke a v).unvouched b = s.unvouched b := by
  rw [State.poke_eq]; rfl

theorem State.peek_of_unvouched (s : State) {a : DataAddr} (h : s.unvouched a = true) :
    s.peek a = stackShows s.stackBits a := by
  unfold State.peek; rw [if_pos h]

theorem State.peek_of_none (s : State) {a : DataAddr} (hu : s.unvouched a = false)
    (h : s.stackSlot a = none) : s.peek a = Memory.read s.ram a.toNat := by
  unfold State.peek; rw [hu, h]; rfl

theorem State.peek_of_some (s : State) {a : DataAddr} {l : Fin 13} {q : Fin 4}
    (h : s.stackSlot a = some (l, q)) : s.peek a = (s.stack[l.val]).nibble q := by
  have hu : s.unvouched a = false := by
    by_contra hu
    rw [s.stackSlot_of_unvouched (by simpa using hu) a] at h
    cases h
  unfold State.peek; rw [hu, h]; rfl

/-- What is read depends on RAM, the stack and the place of the stack alone. -/
theorem State.peek_congr {s t : State} (hr : t.ram = s.ram) (hs : t.stack = s.stack)
    (ho : t.opts = s.opts) (a : DataAddr) : t.peek a = s.peek a := by
  unfold State.peek State.stackSlot State.unvouched State.stackBits
  rw [hr, hs, ho]

/-- A nibble stored is read back, where the model vouches for the address. -/
theorem State.peek_poke_same (s : State) (a : DataAddr) (v : Nibble) (hu : s.unvouched a = false) :
    (s.poke a v).peek a = v := by
  cases h : s.stackSlot a with
  | none =>
    rw [State.peek_of_none _ (by simpa using hu) (by simpa using h), State.poke_of_none s v hu h]
    simp
  | some p =>
    obtain ⟨l, q⟩ := p
    rw [State.peek_of_some _ (by simpa using h), State.poke_of_some s v h]
    simp

/-- A store leaves every other nibble alone, unless the model vouches for neither address. -/
theorem State.peek_poke_other (s : State) {a b : DataAddr} (v : Nibble) (hab : b ≠ a)
    (hu : s.unvouched a = false ∨ s.unvouched b = false) : (s.poke a v).peek b = s.peek b := by
  cases hua : s.unvouched a with
  | true =>
    have hub : s.unvouched b = false := hu.resolve_left (by simp [hua])
    have hsb := s.stackSlot_of_unvouched hua b
    rw [State.peek_of_none _ (by simpa using hub) (by simpa using hsb), State.peek_of_none s hub hsb,
      State.poke_of_unvouched s v hua]
    rfl
  | false =>
    cases hub : s.unvouched b with
    | true =>
      rw [State.peek_of_unvouched _ (by simpa using hub), State.peek_of_unvouched s hub,
        State.poke_of_none s v hua (s.stackSlot_of_unvouched hub a)]
      rfl
    | false =>
      cases hb : s.stackSlot b with
      | none =>
        rw [State.peek_of_none _ (by simpa using hub) (by simpa using hb), State.peek_of_none s hub hb]
        cases ha : s.stackSlot a with
        | none =>
          rw [State.poke_of_none s v hua ha]
          exact Memory.read_write_other _ _ fun e => hab (BitVec.eq_of_toNat_eq e)
        | some p => rw [State.poke_of_some s v (l := p.1) (q := p.2) ha]; rfl
      | some p =>
        obtain ⟨l, q⟩ := p
        rw [State.peek_of_some _ (by simpa using hb), State.peek_of_some s hb]
        cases ha : s.stackSlot a with
        | none => rw [State.poke_of_none s v hua ha]; rfl
        | some r =>
          obtain ⟨k, r⟩ := r
          rw [State.poke_of_some s v ha]
          by_cases hk : k = l
          · subst hk
            have hq : q ≠ r := fun e => hab (s.stackSlot_inj (e ▸ hb) ha)
            simp [StackEntry.nibble_setNibble_other _ _ hq]
          · have : k.val ≠ l.val := fun e => hk (Fin.ext e)
            simp [this]

/-- A store leaves the stack alone where the address holds no piece of it. -/
theorem State.poke_stack (s : State) {a : DataAddr} (v : Nibble) (hu : s.unvouched a = false)
    (h : s.stackSlot a = none) : (s.poke a v).stack = s.stack := by
  rw [State.poke_of_none s v hu h]; rfl

/-- A store to a RAM address keeps RAM canonical. -/
theorem State.poke_ram_wf (s : State) (a : DataAddr) (v : Nibble)
    (h : Memory.wf isRamAddr s.ram = true) (ha : isRamAddr a.toNat = true) :
    Memory.wf isRamAddr (s.poke a v).ram = true := by
  cases hu : s.unvouched a with
  | true => rw [State.poke_of_unvouched s v hu]; exact h
  | false =>
    cases hs : s.stackSlot a with
    | none => rw [State.poke_of_none s v hu hs]; exact Memory.wf_write _ _ _ _ h ha
    | some p => rw [State.poke_of_some s v (l := p.1) (q := p.2) hs]; exact h

end Sys2Proof.Machine
end

