-- ==== Sys2Proof/Laws/Operations.lean ====
section
/-! SUPPORT. One lemma per shared operation: everything it can do. -/

namespace Sys2Proof.Machine

open Sys2Proof.Config

/-! ### Going on -/

theorem onOk_ok {α : Type} (a : α) (k : α → Res) : onOk (.ok a) k = k a := rfl

theorem onOk_error {α : Type} (f : Fault) (k : α → Res) : onOk (.error f) k = .fault f := rfl

theorem onOk_eq_next {α : Type} {r : Except Fault α} {k : α → Res} {t : State}
    (h : onOk r k = .next t) : ∃ a, r = .ok a ∧ k a = .next t := by
  cases r with
  | ok a => exact ⟨a, rfl, h⟩
  | error f => simp [onOk] at h

theorem onOk_ne_refused {α : Type} {r : Except Fault α} {k : α → Res} {x : Refusal}
    (h : ∀ a, k a ≠ .refused x) : onOk r k ≠ .refused x := by
  cases r with
  | ok a => exact h a
  | error f => simp [onOk]

/-! ### Data memory -/

theorem isSpecialArea_false {a : DataAddr} (h : isSpecialArea a = false) : isRamAddr a.toNat = true := by
  have := a.isLt
  simp only [isSpecialArea, isRamAddr, Bool.and_eq_false_iff, decide_eq_false_iff_not, Bool.or_eq_true,
    Bool.and_eq_true, decide_eq_true_eq] at *
  omega

theorem eaZp_not_special (y : Nibble) : isSpecialArea (eaZp y) = false := by
  have h : (eaZp y).toNat = y.toNat := by revert y; decide
  have := y.isLt
  simp only [isSpecialArea, h, Bool.and_eq_false_iff, decide_eq_false_iff_not]
  omega

theorem readData_eq_ok {a : DataAddr} {s : State} {v : Nibble} (h : readData a s = .ok v) :
    isSpecialArea a = false ∧ v = s.peek a := by
  unfold readData at h
  split at h
  · cases h
  · next hs => exact ⟨by simpa using hs, by simpa using h.symm⟩

theorem writeData_eq_ok {a : DataAddr} {v : Nibble} {s t : State} (h : writeData a v s = .ok t) :
    isSpecialArea a = false ∧ t = s.poke a v := by
  unfold writeData at h
  split at h
  · cases h
  · next hs => exact ⟨by simpa using hs, by simpa using h.symm⟩

theorem readData_of_ram {a : DataAddr} (s : State) (h : isSpecialArea a = false) :
    readData a s = .ok (s.peek a) := by
  simp [readData, h]

theorem writeData_of_ram {a : DataAddr} (v : Nibble) (s : State) (h : isSpecialArea a = false) :
    writeData a v s = .ok (s.poke a v) := by
  simp [writeData, h]

theorem readData_of_special {a : DataAddr} (s : State) (h : isSpecialArea a = true) :
    readData a s = .error .bank0SpecialArea := by
  simp [readData, h]

theorem writeData_of_special {a : DataAddr} (v : Nibble) (s : State) (h : isSpecialArea a = true) :
    writeData a v s = .error .bank0SpecialArea := by
  simp [writeData, h]

theorem readDirect_eq_ok {x : Byte} {s : State} {v : Nibble} (h : readDirect x s = .ok v) :
    (isSpecialArea (s.eaDir x) = false ∧ v = s.peek (s.eaDir x)) ∨
    (isSpecialArea (s.eaDir x) = true ∧ ∃ r, specialAt (s.eaDir x) = some r ∧ v = s.getSpecial r) := by
  unfold readDirect at h
  split at h
  · next hs =>
    split at h
    · next r hr => exact .inr ⟨hs, r, hr, by simpa using h.symm⟩
    · cases h
  · next hs => exact .inl ⟨by simpa using hs, by simpa using h.symm⟩

theorem writeDirect_eq_ok {x : Byte} {v : Nibble} {s t : State} (h : writeDirect x v s = .ok t) :
    (isSpecialArea (s.eaDir x) = false ∧ t = s.poke (s.eaDir x) v) ∨
    (isSpecialArea (s.eaDir x) = true ∧ ∃ r, specialAt (s.eaDir x) = some r ∧ t = s.putSpecial r v) := by
  unfold writeDirect at h
  split at h
  · next hs =>
    split at h
    · next r hr => exact .inr ⟨hs, r, hr, by simpa using h.symm⟩
    · cases h
  · next hs => exact .inl ⟨by simpa using hs, by simpa using h.symm⟩

/-! ### The stack -/

theorem pushEntry_eq_ok {e : StackEntry} {s t : State} (h : pushEntry e s = .ok t) :
    ∃ hs : s.sp.toNat < 13, t = (s.setStack (s.stack.set s.sp.toNat e hs)).setSp (s.sp - 1#4) := by
  unfold pushEntry at h
  split at h
  · next hs => exact ⟨hs, by simpa using h.symm⟩
  · cases h

theorem popEntry_eq_ok {s t : State} {e : StackEntry} (h : popEntry s = .ok (e, t)) :
    ∃ hs : (s.sp + 1#4).toNat < 13,
      e = s.stack[(s.sp + 1#4).toNat]'hs ∧ t = s.setSp (s.sp + 1#4) := by
  unfold popEntry at h
  split at h
  · next hs =>
    simp only [Except.ok.injEq, Prod.mk.injEq] at h
    exact ⟨hs, h.1.symm, h.2.symm⟩
  · cases h

theorem callTo_eq_next {target : RomAddr} {len : Nat} {s t : State} (h : callTo target len s = .next t) :
    ∃ hs : s.sp.toNat < 13,
      t = ((s.drawn.setStack (s.stack.set s.sp.toNat (s.callEntry (s.nextPc len)) hs)).setSp
        (s.sp - 1#4)).setPc target := by
  obtain ⟨u, hu, ht⟩ := onOk_eq_next h
  obtain ⟨hs, rfl⟩ := pushEntry_eq_ok hu
  exact ⟨hs, by simpa [State.drawn] using ht.symm⟩

theorem takeInterrupt_eq_next {n : Source} {s t : State} (h : takeInterrupt n s = .next t) :
    ∃ hs : s.sp.toNat < 13,
      t = (((((s.setStack (s.stack.set s.sp.toNat ⟨s.cf, s.zf, s.sf, s.pc⟩ hs)).setSp
        (s.sp - 1#4)).setPc n.vector).setSf true).setEi false).setIl
          (s.il &&& ~~~(1#6 <<< n.latchBit)) := by
  obtain ⟨u, hu, ht⟩ := onOk_eq_next h
  obtain ⟨hs, rfl⟩ := pushEntry_eq_ok hu
  exact ⟨hs, by simpa using ht.symm⟩

theorem returnFromInterrupt_eq_next {s t : State} (h : returnFromInterrupt s = .next t) :
    ∃ hs : (s.sp + 1#4).toNat < 13,
      t = (((((s.setSp (s.sp + 1#4)).setPc (s.stack[(s.sp + 1#4).toNat]'hs).pc).setCf
        (s.stack[(s.sp + 1#4).toNat]'hs).cf).setZf (s.stack[(s.sp + 1#4).toNat]'hs).zf).setSf
          (s.stack[(s.sp + 1#4).toNat]'hs).sf).setEi true := by
  obtain ⟨⟨e, u⟩, hu, ht⟩ := onOk_eq_next h
  obtain ⟨hs, rfl, rfl⟩ := popEntry_eq_ok hu
  exact ⟨hs, by simpa using ht.symm⟩

/-! ### Shapes of instructions -/

theorem withHl_eq_next {s t : State} {k : Nibble → Res} (h : withHl s k = .next t) :
    isSpecialArea s.eaHl = false ∧ k (s.peek s.eaHl) = .next t := by
  obtain ⟨v, hv, ht⟩ := onOk_eq_next h
  obtain ⟨hs, rfl⟩ := readData_eq_ok hv
  exact ⟨hs, ht⟩

theorem loadDirect_eq_next {x : Byte} {s t : State} (h : loadDirect x s = .next t) :
    ∃ v, readDirect x s = .ok v ∧ t = ((s.setAcc v).flagsLoad v).advance 2 := by
  obtain ⟨v, hv, ht⟩ := onOk_eq_next h
  exact ⟨v, hv, by simpa using ht.symm⟩

theorem storeDirect_eq_next {x : Byte} {s t : State} (h : storeDirect x s = .next t) :
    ∃ u, writeDirect x s.acc s = .ok u ∧ t = u.flagsSet.advance 2 := by
  obtain ⟨u, hu, ht⟩ := onOk_eq_next h
  exact ⟨u, hu, by simpa using ht.symm⟩

theorem updateData_eq_next {a : DataAddr} {len : Nat} {f : Nibble → Alu} {g : State → Alu → State}
    {s t : State} (h : updateData a len f g s = .next t) :
    isSpecialArea a = false ∧
      t = (g (s.poke a (f (s.peek a)).val) (f (s.peek a))).advance len := by
  obtain ⟨m, hm, h⟩ := onOk_eq_next h
  obtain ⟨hs, rfl⟩ := readData_eq_ok hm
  obtain ⟨u, hu, ht⟩ := onOk_eq_next h
  obtain ⟨-, rfl⟩ := writeData_eq_ok hu
  exact ⟨hs, by simpa using ht.symm⟩

theorem storeThenStep_eq_next {v : Nibble} {r : Alu} {g : State → Alu → State} {s t : State}
    (h : storeThenStep v r g s = .next t) :
    isSpecialArea s.eaHl = false ∧ t = (g ((s.poke s.eaHl v).setLr r.val) r).advance 1 := by
  obtain ⟨u, hu, ht⟩ := onOk_eq_next h
  obtain ⟨hs, rfl⟩ := writeData_eq_ok hu
  exact ⟨hs, by simpa using ht.symm⟩

theorem updatePort_eq_next {p : BitVec 5} {len : Nat} {f : Nibble → Nibble} {s t : State}
    (h : updatePort p len f s = .next t) :
    ∃ u, portOut p (f (portLatch p s)) s = .ok u ∧ t = u.flagsSet.advance len := by
  obtain ⟨u, hu, ht⟩ := onOk_eq_next h
  exact ⟨u, hu, by simpa using ht.symm⟩

theorem testPort_eq_next {p : BitVec 5} {len : Nat} {f : Nibble → Bool} {s t : State}
    (h : testPort p len f s = .next t) :
    ∃ v, portIn p s = .ok v ∧ t = (s.drawn.setSf (f v)).advance len := by
  obtain ⟨v, hv, ht⟩ := onOk_eq_next h
  exact ⟨v, hv, by simpa using ht.symm⟩

theorem outputTo_eq_next {p : BitVec 5} {v : Nibble} {s t : State} (h : outputTo p v s = .next t) :
    ∃ u, portOut p v s = .ok u ∧ t = u.flagsSet.advance 2 := by
  obtain ⟨u, hu, ht⟩ := onOk_eq_next h
  exact ⟨u, hu, by simpa using ht.symm⟩

theorem branchTo_eq_next {target : RomAddr} {len : Nat} {s t : State} (h : branchTo target len s = .next t) :
    t = (s.setPc (if s.sf then target else s.nextPc len)).setSf true := by
  simpa [branchTo, State.flagsSet] using h.symm

/-! ### Ports -/

/-- An input succeeds on exactly the ports that have an input function. -/
theorem portIn_isOk (p : BitVec 5) (s : State) :
    (∃ v, portIn p s = .ok v) ↔ p.toNat ≤ 11 ∨ p.toNat = 14 := by
  constructor
  · rintro ⟨v, h⟩
    unfold portIn at h
    split at h <;> first | (cases h; done) | decide
  · intro h
    have key : p = 0#5 ∨ p = 1#5 ∨ p = 2#5 ∨ p = 3#5 ∨ p = 4#5 ∨ p = 5#5 ∨ p = 6#5 ∨ p = 7#5 ∨
        p = 8#5 ∨ p = 9#5 ∨ p = 10#5 ∨ p = 11#5 ∨ p = 14#5 := by
      have := p.isLt
      bv_omega
    rcases key with rfl | rfl | rfl | rfl | rfl | rfl | rfl | rfl | rfl | rfl | rfl | rfl | rfl <;>
      exact ⟨_, rfl⟩

/-- What an output can change: nothing but latches, command registers, HTC, mode, WKS, the LCD switch and
the watch-dog counter. -/
theorem portOut_frame {p : BitVec 5} {v : Nibble} {s t : State} (h : portOut p v s = .ok t) :
    t = { s with latch := t.latch, cmd := t.cmd, htc := t.htc, mode := t.mode, wks := t.wks,
                 lcdPower := t.lcdPower, wdtCount := t.wdtCount } := by
  unfold portOut at h
  split at h
  case h_14 =>
    simp only [writeP16] at h
    split at h
    · cases h; rfl
    · split at h <;> cases h; rfl
  case h_15 =>
    simp only [writeP19] at h
    split at h
    · cases h; rfl
    · split at h <;> cases h; rfl
    · cases h
  case h_16 =>
    simp only [writeP21] at h
    split at h
    · split at h <;> cases h <;> rfl
    · cases h; rfl
  case h_17 =>
    simp only [writeP22] at h
    split at h
    · split at h <;> cases h; rfl
    · cases h; rfl
    · cases h; rfl
  case h_18 => simp only [writeP25] at h; split at h <;> cases h; rfl
  case h_19 => simp only [writeP27] at h; split at h <;> cases h <;> rfl
  case h_20 => simp only [writeP28] at h; split at h <;> cases h; rfl
  case h_21 => cases h; rfl
  case h_22 =>
    simp only [writeP31] at h
    split at h
    · cases h
    · split at h <;> cases h <;> rfl
  all_goals first | (cases h; rfl) | cases h

/-- Every output to port 14 or below that succeeds goes to a port with an output function. -/
theorem portOut_low_isOk (p : BitVec 5) (v : Nibble) (s : State) (h : p.toNat ≤ 11 ∨ p.toNat = 14) :
    ∃ t, portOut p v s = .ok t := by
  have key : p = 0#5 ∨ p = 1#5 ∨ p = 2#5 ∨ p = 3#5 ∨ p = 4#5 ∨ p = 5#5 ∨ p = 6#5 ∨ p = 7#5 ∨
      p = 8#5 ∨ p = 9#5 ∨ p = 10#5 ∨ p = 11#5 ∨ p = 14#5 := by
    have := p.isLt
    bv_omega
  rcases key with rfl | rfl | rfl | rfl | rfl | rfl | rfl | rfl | rfl | rfl | rfl | rfl | rfl <;>
    exact ⟨_, rfl⟩

theorem writeP16_eq_ok {v : Nibble} {s t : State} (h : writeP16 v s = .ok t) :
    (v.getLsbD 2 = true ∧ t = ((s.setCmd { s.cmd with p16 := v }).setMode .stop).setLcdPower false) ∨
    (v.getLsbD 2 = false ∧ swwt v = 0#3 ∧ t = s.setCmd { s.cmd with p16 := v }) := by
  simp only [writeP16] at h
  split at h
  · next hv => exact .inl ⟨hv, by simpa using h.symm⟩
  · next hv =>
    split at h
    · next h0 => exact .inr ⟨by simpa using hv, h0, by simpa using h.symm⟩
    · cases h

theorem writeP19_eq_ok {v : Nibble} {s t : State} (h : writeP19 v s = .ok t) :
    (fieldHigh v = 0#2 ∧ t = s.setCmd { s.cmd with p19 := v }) ∨
    (fieldHigh v = 1#2 ∧ s.mode = .slow ∧ t = (s.setCmd { s.cmd with p19 := v }).setMode .idle) := by
  simp only [writeP19] at h
  split at h
  · next hv => exact .inl ⟨hv, by simpa using h.symm⟩
  · next hv =>
    split at h
    · next hm => exact .inr ⟨hv, hm, by simpa using h.symm⟩
    · cases h
  · cases h

theorem writeP21_eq_ok {v : Nibble} {s t : State} (h : writeP21 v s = .ok t) :
    (s.opts.wdtEnable = true ∧ t = { s with
        cmd := { s.cmd with p21 := cwcReturned s.opts.cwcBit v }, wdtCount := t.wdtCount }) ∨
    (s.opts.wdtEnable = false ∧ t = s) := by
  simp only [writeP21] at h
  split at h
  · next hw => exact .inl ⟨hw, by split at h <;> cases h <;> rfl⟩
  · next hw => exact .inr ⟨by simpa using hw, by simpa using h.symm⟩

theorem writeP22_eq_ok {v : Nibble} {s t : State} (h : writeP22 v s = .ok t) :
    (somSlow s.opts.somUnused v = true ∧ s.mode = .normal ∧
      slowReserved s.opts.freqDouble s.cmd = false ∧
      t = (s.setCmd { s.cmd with p22 := v }).setMode .slow) ∨
    (somSlow s.opts.somUnused v = false ∧ s.mode = .slow ∧
      t = (s.setCmd { s.cmd with p22 := v }).setMode .normal) ∨
    t = s.setCmd { s.cmd with p22 := v } := by
  simp only [writeP22] at h
  split at h
  · next h1 h2 =>
    split at h
    · cases h
    · next hr => exact .inl ⟨h1, h2, by simpa using hr, by simpa using h.symm⟩
  · next h1 h2 => exact .inr (.inl ⟨h1, h2, by simpa using h.symm⟩)
  · exact .inr (.inr (by simpa using h.symm))

theorem writeP25_eq_ok {v : Nibble} {s t : State} (h : writeP25 v s = .ok t) :
    timeBaseRate s.opts.freqDouble (s.mode == .slow) v ≠ .reserved ∧
      t = s.setCmd { s.cmd with p25 := v } := by
  simp only [writeP25] at h
  split at h
  · cases h
  · next hr => exact ⟨hr, by simpa using h.symm⟩

theorem writeP27_eq_ok {v : Nibble} {s t : State} (h : writeP27 v s = .ok t) :
    (lcdMode v = .enabled ∧ t = (s.setCmd { s.cmd with p27 := v }).setLcdPower true) ∨
    ((lcdMode v = .disabled ∨ lcdMode v = .blanking) ∧ t = s.setCmd { s.cmd with p27 := v }) := by
  simp only [writeP27] at h
  split at h
  · cases h
  · next hv => exact .inl ⟨hv, by simpa using h.symm⟩
  · next hv => exact .inr ⟨.inl hv, by simpa using h.symm⟩
  · next hv => exact .inr ⟨.inr hv, by simpa using h.symm⟩

theorem writeP28_eq_ok {v : Nibble} {s t : State} (h : writeP28 v s = .ok t) :
    timerARate s.opts.freqDouble (s.mode == .slow) v ≠ .reserved ∧
      t = s.setCmd { s.cmd with p28 := v } := by
  simp only [writeP28] at h
  split at h
  · cases h
  · next hr => exact ⟨hr, by simpa using h.symm⟩

theorem writeP31_eq_ok {v : Nibble} {s t : State} (h : writeP31 v s = .ok t) :
    htcRate s.opts.freqDouble (s.mode == .slow) v ≠ .reserved ∧
      t = { s with cmd := { s.cmd with p31 := v }, htc := t.htc } := by
  simp only [writeP31] at h
  split at h
  · cases h
  · next hr => exact ⟨hr, by split at h <;> cases h <;> rfl⟩

end Sys2Proof.Machine
end

