-- ==== Sys2Proof/Laws/Devices.lean ====
section
/-! SUPPORT. What each device operation, and the step, can do, said once. -/

namespace Sys2Proof.Machine

open Sys2Proof.Config

/-! ### Counters -/

theorem countA_frame (s : State) : countA s = { s with ta := (countA s).ta, il := (countA s).il } := by
  unfold countA; split <;> rfl

theorem countB_frame (s : State) : countB s = { s with tb := (countB s).tb, il := (countB s).il } := by
  unfold countB; split <;> rfl

theorem pulseA_frame (s : State) : pulseA s = { s with ta := (pulseA s).ta, il := (pulseA s).il } := by
  unfold pulseA; split
  · exact countA_frame s
  · rfl

theorem pulseB_frame (s : State) : pulseB s = { s with tb := (pulseB s).tb, il := (pulseB s).il } := by
  unfold pulseB; split
  · exact countB_frame s
  · rfl

theorem countHtc_frame (s : State) :
    countHtc s = { s with htc := (countHtc s).htc, il := (countHtc s).il } := by
  unfold countHtc; split
  · split <;> rfl
  · rfl

theorem countHtc_preset (s : State) : (countHtc s).htc.preset = s.htc.preset := by
  unfold countHtc; split
  · split <;> rfl
  · rfl

theorem clockHtc_frame (s : State) :
    clockHtc s = { s with htc := (clockHtc s).htc, il := (clockHtc s).il } := by
  unfold clockHtc; split
  · exact countHtc_frame s
  · rfl

theorem clockHtc_preset (s : State) : (clockHtc s).htc.preset = s.htc.preset := by
  unfold clockHtc; split
  · exact countHtc_preset s
  · rfl

theorem tickTimeBase_frame (s : State) : tickTimeBase s = { s with il := (tickTimeBase s).il } := by
  unfold tickTimeBase; split <;> rfl

/-! ### Pins -/

theorem eventCount_frame (p : PinPort) (old new : Nibble) (s : State) :
    eventCount p old new s =
      { s with
        ta := (eventCount p old new s).ta, tb := (eventCount p old new s).tb,
        il := (eventCount p old new s).il } := by
  unfold eventCount; split
  · split
    · rw [countA_frame]
    · rfl
  · split
    · rw [countB_frame]
    · rfl
  · rfl

theorem externalRequest_frame (p : PinPort) (old new : Nibble) (allowed : Bool) (s : State) :
    externalRequest p old new allowed s =
      { s with il := (externalRequest p old new allowed s).il } := by
  unfold externalRequest; split
  · split <;> split <;> rfl
  · rfl

/-- A release by a pin leaves IDLE for SLOW and STOP for NORMAL, and changes nothing else. -/
theorem releaseByPin_cases (s : State) :
    (s.mode = .idle ∧ releaseByPin s = s.setMode .slow) ∨
    (s.mode = .stop ∧ releaseByPin s = s.setMode .normal) ∨
    (s.mode.running = true ∧ releaseByPin s = s) := by
  unfold releaseByPin
  cases h : s.mode <;> simp [Mode.running]

/-- A release by the internal signal leaves IDLE for SLOW and sets WKS, or changes nothing. -/
theorem releaseByTimer_cases (s : State) :
    (s.mode = .idle ∧ releaseByTimer s = (s.setMode .slow).setWks true) ∨ releaseByTimer s = s := by
  unfold releaseByTimer
  split
  · next h _ => exact .inl ⟨h, rfl⟩
  · exact .inr rfl

/-- A count of the watch-dog resets the chip, advances the counter, or does nothing. -/
theorem clockWdt_cases (s : State) :
    clockWdt s = resetChip s ∨ clockWdt s = s.setWdtCount (s.wdtCount + 1#4) ∨ clockWdt s = s := by
  unfold clockWdt
  split
  · split
    · exact .inl rfl
    · exact .inr (.inl rfl)
  · exact .inr (.inr rfl)

/-- RAM after a reset is canonical, whatever the free values are. -/
theorem freeRam_wf (d : Nat) : Memory.wf isRamAddr (freeRam d) = true := by
  have key : ∀ (l : List Nat) (m : List NibbleCell), (∀ a ∈ l, isRamAddr a = true) →
      Memory.wf isRamAddr m = true →
      Memory.wf isRamAddr (l.foldl (fun m a => Memory.write m a (freeBits 4 (d + 32 + a))) m) = true := by
    intro l
    induction l with
    | nil => exact fun m _ hm => hm
    | cons a l ih =>
      exact fun m hl hm => ih _ (fun b hb => hl b (.tail _ hb)) (Memory.wf_write _ _ _ _ hm (hl a (.head _)))
  exact key _ [] (fun a ha => (List.mem_filter.1 ha).2) rfl

/-! ### The step -/

/-- Whose turn a step was, and what it did. -/
theorem step_eq_next {s t : State} (h : step s = .next t) :
    (s.schedule = [] ∧ cpuTurn s = .next t) ∨
    (∃ rest, s.schedule = .cpu :: rest ∧ cpuTurn (s.setSchedule rest) = .next t) ∨
    ∃ e rest, s.schedule = e :: rest ∧ e ≠ .cpu ∧ t = deviceAction e (s.setSchedule rest) := by
  change boundary s = _ at h
  unfold boundary at h
  split at h
  · next hs => exact .inl ⟨hs, h⟩
  · next rest hs => exact .inr (.inl ⟨rest, hs, h⟩)
  · next e rest hn hs => exact .inr (.inr ⟨e, rest, hs, hn, (Host.Outcome.next.inj h).symm⟩)

/-- What the CPU's turn did: it slept, accepted an interrupt, or ran the instruction at PC. -/
theorem cpuTurn_eq_next {s t : State} (h : cpuTurn s = .next t) :
    (s.mode.running = false ∧ t = s) ∨
    (s.mode.running = true ∧ ∃ n, s.pendingSource = some n ∧ takeInterrupt n s = .next t) ∨
    (s.mode.running = true ∧ s.pendingSource = none ∧ ∃ i, s.fetch = .ok i ∧ exec i s = .next t) := by
  unfold cpuTurn at h
  split at h
  · next hr =>
    split at h
    · next n hn => exact .inr (.inl ⟨hr, n, hn, h⟩)
    · next hn =>
      unfold runInstruction at h
      split at h
      · next i hi => exact .inr (.inr ⟨hr, hn, i, hi, h⟩)
      · cases h
  · next hr => exact .inl ⟨by simpa using hr, (Host.Outcome.next.inj h).symm⟩

end Sys2Proof.Machine
end

