-- ==== Sys2Proof/Laws/Instructions.lean ====
section
/-! SUPPORT. What each instruction can do, said once: if `exec` answers a next state, which checks passed and
which state it is. Proofs about all instructions split on the instruction and cite these. -/

namespace Sys2Proof.Machine

open Sys2Proof.Config

variable {s t : State}

theorem onOk_readData_eq_next {a : DataAddr} {f : Nibble → State}
    (h : onOk (readData a s) (fun m => .next (f m)) = .next t) :
    isSpecialArea a = false ∧ t = f (s.peek a) := by
  obtain ⟨m, hm, ht⟩ := onOk_eq_next h
  obtain ⟨hs, rfl⟩ := readData_eq_ok hm
  exact ⟨hs, (Host.Outcome.next.inj ht).symm⟩

theorem onOk_writeData_eq_next {a : DataAddr} {v : Nibble} {f : State → State}
    (h : onOk (writeData a v s) (fun u => .next (f u)) = .next t) :
    isSpecialArea a = false ∧ t = f (s.poke a v) := by
  obtain ⟨u, hu, ht⟩ := onOk_eq_next h
  obtain ⟨hs, rfl⟩ := writeData_eq_ok hu
  exact ⟨hs, (Host.Outcome.next.inj ht).symm⟩

theorem exchangeData_eq_next {a : DataAddr} {len : Nat} (h : exchangeData a len s = .next t) :
    isSpecialArea a = false ∧ t = loadAcc len (s.peek a) (s.poke a s.acc) := by
  obtain ⟨m, hm, h⟩ := onOk_eq_next h
  obtain ⟨hs, rfl⟩ := readData_eq_ok hm
  exact ⟨hs, (onOk_writeData_eq_next h).2⟩

theorem exec_lda_next (x : Byte) (h : exec (.lda x) s = .next t) :
    ∃ v, readDirect x s = .ok v ∧ t = ((s.setAcc v).flagsLoad v).advance 2 :=
  loadDirect_eq_next h

theorem exec_ldam_next (h : exec .ldam s = .next t) :
    isSpecialArea s.eaHl = false ∧ t = loadAcc 1 (s.peek s.eaHl) s :=
  (withHl_eq_next h).imp id fun e => (Host.Outcome.next.inj e).symm

theorem exec_ldax_next (h : exec .ldax s = .next t) :
    t = loadAcc 1 ((s.romByte s.tableAddr).extractLsb' 0 4) s :=
  (Host.Outcome.next.inj h).symm

theorem exec_ldaxi_next (h : exec .ldaxi s = .next t) :
    t = loadAcc 1 ((s.romByte s.tableAddr).extractLsb' 4 4) (s.setDp (s.dp + 1#12)) :=
  (Host.Outcome.next.inj h).symm

theorem exec_ldh_next (k : Nibble) (h : exec (.ldh k) s = .next t) :
    t = (s.setHr k).flagsSet.advance 1 :=
  (Host.Outcome.next.inj h).symm

theorem exec_ldhl_next (x : BitVec 6) (h : exec (.ldhl x) s = .next t) :
    isSpecialArea (s.eaDir (pairLow x)) = false ∧ isSpecialArea (s.eaDir (pairHigh x)) = false ∧
      t = ((s.setLr (s.peek (s.eaDir (pairLow x)))).setHr (s.peek (s.eaDir (pairHigh x)))).flagsSet.advance 2 := by
  obtain ⟨l, hl, h⟩ := onOk_eq_next h
  obtain ⟨a, rfl⟩ := readData_eq_ok hl
  obtain ⟨b, h⟩ := onOk_readData_eq_next h
  exact ⟨a, b, h⟩

theorem exec_ldia_next (k : Nibble) (h : exec (.ldia k) s = .next t) :
    t = loadAcc 1 k s :=
  (Host.Outcome.next.inj h).symm

theorem exec_ldl_next (k : Nibble) (h : exec (.ldl k) s = .next t) :
    t = (s.setLr k).flagsSet.advance 1 :=
  (Host.Outcome.next.inj h).symm

theorem exec_sta_next (x : Byte) (h : exec (.sta x) s = .next t) :
    ∃ u, writeDirect x s.acc s = .ok u ∧ t = u.flagsSet.advance 2 :=
  storeDirect_eq_next h

theorem exec_stam_next (h : exec .stam s = .next t) :
    isSpecialArea s.eaHl = false ∧ t = (s.poke s.eaHl s.acc).flagsSet.advance 1 :=
  onOk_writeData_eq_next h

theorem exec_stamd_next (h : exec .stamd s = .next t) :
    isSpecialArea s.eaHl = false ∧ ∃ r, r = sub4 s.lr 1#4 false ∧
      t = (State.flagsSub ((s.poke s.eaHl s.acc).setLr r.val) r).advance 1 :=
  (storeThenStep_eq_next h).imp id fun e => ⟨_, rfl, e⟩

theorem exec_stami_next (h : exec .stami s = .next t) :
    isSpecialArea s.eaHl = false ∧ ∃ r, r = add4 s.lr 1#4 false ∧
      t = (State.flagsAdd ((s.poke s.eaHl s.acc).setLr r.val) r).advance 1 :=
  (storeThenStep_eq_next h).imp id fun e => ⟨_, rfl, e⟩

theorem exec_std_next (k : Nibble) (y : Nibble) (h : exec (.std k y) s = .next t) :
    isSpecialArea (eaZp y) = false ∧ t = (s.poke (eaZp y) k).flagsSet.advance 2 :=
  onOk_writeData_eq_next h

theorem exec_stdmi_next (k : Nibble) (h : exec (.stdmi k) s = .next t) :
    isSpecialArea s.eaHl = false ∧ ∃ r, r = add4 s.lr 1#4 false ∧
      t = (State.flagsAdd ((s.poke s.eaHl k).setLr r.val) r).advance 1 :=
  (storeThenStep_eq_next h).imp id fun e => ⟨_, rfl, e⟩

theorem exec_tha_next (h : exec .tha s = .next t) :
    t = loadAcc 1 s.hr s :=
  (Host.Outcome.next.inj h).symm

theorem exec_tla_next (h : exec .tla s = .next t) :
    t = loadAcc 1 s.lr s :=
  (Host.Outcome.next.inj h).symm

theorem exec_rlca_next (h : exec .rlca s = .next t) :
    ∃ r, r = rotateLeft s.acc s.cf ∧ t = ((s.setAcc r.val).flagsAddCarry r).advance 1 :=
  ⟨_, rfl, (Host.Outcome.next.inj h).symm⟩

theorem exec_rrca_next (h : exec .rrca s = .next t) :
    ∃ r, r = rotateRight s.acc s.cf ∧ t = ((s.setAcc r.val).flagsAddCarry r).advance 1 :=
  ⟨_, rfl, (Host.Outcome.next.inj h).symm⟩

theorem exec_adcam_next (h : exec .adcam s = .next t) :
    isSpecialArea s.eaHl = false ∧ ∃ r, r = add4 s.acc (s.peek s.eaHl) s.cf ∧
      t = ((s.setAcc r.val).flagsAddCarry r).advance 1 :=
  (withHl_eq_next h).imp id fun e => ⟨_, rfl, (Host.Outcome.next.inj e).symm⟩

theorem exec_add_next (k : Nibble) (y : Nibble) (h : exec (.add k y) s = .next t) :
    isSpecialArea (eaZp y) = false ∧ ∃ r, r = add4 (s.peek (eaZp y)) k false ∧
      t = (State.flagsAdd (s.poke (eaZp y) r.val) r).advance 2 :=
  (updateData_eq_next h).imp id fun e => ⟨_, rfl, e⟩

theorem exec_adda_next (k : Nibble) (h : exec (.adda k) s = .next t) :
    ∃ r, r = add4 s.acc k false ∧ t = ((s.setAcc r.val).flagsAdd r).advance 2 :=
  ⟨_, rfl, (Host.Outcome.next.inj h).symm⟩

theorem exec_addam_next (h : exec .addam s = .next t) :
    isSpecialArea s.eaHl = false ∧ ∃ r, r = add4 s.acc (s.peek s.eaHl) false ∧
      t = (((s.setAcc r.val).bulletCarry r).flagsAdd r).advance 1 :=
  (withHl_eq_next h).imp id fun e => ⟨_, rfl, (Host.Outcome.next.inj e).symm⟩

theorem exec_addh_next (k : Nibble) (h : exec (.addh k) s = .next t) :
    ∃ r, r = add4 s.hr k false ∧ t = ((s.setHr r.val).flagsAdd r).advance 2 :=
  ⟨_, rfl, (Host.Outcome.next.inj h).symm⟩

theorem exec_addl_next (k : Nibble) (h : exec (.addl k) s = .next t) :
    ∃ r, r = add4 s.lr k false ∧ t = ((s.setLr r.val).flagsAdd r).advance 2 :=
  ⟨_, rfl, (Host.Outcome.next.inj h).symm⟩

theorem exec_addm_next (k : Nibble) (h : exec (.addm k) s = .next t) :
    isSpecialArea s.eaHl = false ∧ ∃ r, r = add4 (s.peek s.eaHl) k false ∧
      t = (State.flagsAdd (s.poke s.eaHl r.val) r).advance 2 :=
  (updateData_eq_next h).imp id fun e => ⟨_, rfl, e⟩

theorem exec_deca_next (h : exec .deca s = .next t) :
    ∃ r, r = sub4 s.acc 1#4 false ∧ t = (((s.setAcc r.val).bulletCarry r).flagsSub r).advance 1 :=
  ⟨_, rfl, (Host.Outcome.next.inj h).symm⟩

theorem exec_decl_next (h : exec .decl s = .next t) :
    ∃ r, r = sub4 s.lr 1#4 false ∧ t = ((s.setLr r.val).flagsSub r).advance 1 :=
  ⟨_, rfl, (Host.Outcome.next.inj h).symm⟩

theorem exec_decm_next (h : exec .decm s = .next t) :
    isSpecialArea s.eaHl = false ∧ ∃ r, r = sub4 (s.peek s.eaHl) 1#4 false ∧
      t = (State.flagsSub (s.poke s.eaHl r.val) r).advance 1 :=
  (updateData_eq_next h).imp id fun e => ⟨_, rfl, e⟩

theorem exec_inca_next (h : exec .inca s = .next t) :
    ∃ r, r = add4 s.acc 1#4 false ∧ t = ((s.setAcc r.val).flagsAdd r).advance 1 :=
  ⟨_, rfl, (Host.Outcome.next.inj h).symm⟩

theorem exec_incl_next (h : exec .incl s = .next t) :
    ∃ r, r = add4 s.lr 1#4 false ∧ t = ((s.setLr r.val).flagsAdd r).advance 1 :=
  ⟨_, rfl, (Host.Outcome.next.inj h).symm⟩

theorem exec_incm_next (h : exec .incm s = .next t) :
    isSpecialArea s.eaHl = false ∧ ∃ r, r = add4 (s.peek s.eaHl) 1#4 false ∧
      t = (State.flagsAdd (s.poke s.eaHl r.val) r).advance 1 :=
  (updateData_eq_next h).imp id fun e => ⟨_, rfl, e⟩

theorem exec_suba_next (k : Nibble) (h : exec (.suba k) s = .next t) :
    ∃ r, r = sub4 k s.acc false ∧ t = ((s.setAcc r.val).flagsSub r).advance 2 :=
  ⟨_, rfl, (Host.Outcome.next.inj h).symm⟩

theorem exec_sbcam_next (h : exec .sbcam s = .next t) :
    isSpecialArea s.eaHl = false ∧ ∃ r, r = sub4 (s.peek s.eaHl) s.acc (!s.cf) ∧
      t = ((s.setAcc r.val).flagsSubCarry r).advance 1 :=
  (withHl_eq_next h).imp id fun e => ⟨_, rfl, (Host.Outcome.next.inj e).symm⟩

theorem exec_subm_next (k : Nibble) (h : exec (.subm k) s = .next t) :
    isSpecialArea s.eaHl = false ∧ ∃ r, r = sub4 k (s.peek s.eaHl) false ∧
      t = (State.flagsSub (s.poke s.eaHl r.val) r).advance 2 :=
  (updateData_eq_next h).imp id fun e => ⟨_, rfl, e⟩

theorem exec_anda_next (k : Nibble) (h : exec (.anda k) s = .next t) :
    t = logicAcc 2 (s.acc &&& k) s :=
  (Host.Outcome.next.inj h).symm

theorem exec_andam_next (h : exec .andam s = .next t) :
    isSpecialArea s.eaHl = false ∧ t = logicAcc 1 (s.acc &&& s.peek s.eaHl) s :=
  (withHl_eq_next h).imp id fun e => (Host.Outcome.next.inj e).symm

theorem exec_andm_next (k : Nibble) (h : exec (.andm k) s = .next t) :
    isSpecialArea s.eaHl = false ∧ ∃ r, r = logic (s.peek s.eaHl &&& k) ∧
      t = (logicFlags (s.poke s.eaHl r.val) r).advance 2 :=
  (updateData_eq_next h).imp id fun e => ⟨_, rfl, e⟩

theorem exec_ora_next (k : Nibble) (h : exec (.ora k) s = .next t) :
    t = logicAcc 2 (s.acc ||| k) s :=
  (Host.Outcome.next.inj h).symm

theorem exec_oram_next (h : exec .oram s = .next t) :
    isSpecialArea s.eaHl = false ∧ t = logicAcc 1 (s.acc ||| s.peek s.eaHl) s :=
  (withHl_eq_next h).imp id fun e => (Host.Outcome.next.inj e).symm

theorem exec_orm_next (k : Nibble) (h : exec (.orm k) s = .next t) :
    isSpecialArea s.eaHl = false ∧ ∃ r, r = logic (s.peek s.eaHl ||| k) ∧
      t = (logicFlags (s.poke s.eaHl r.val) r).advance 2 :=
  (updateData_eq_next h).imp id fun e => ⟨_, rfl, e⟩

theorem exec_xoram_next (h : exec .xoram s = .next t) :
    isSpecialArea s.eaHl = false ∧ t = logicAcc 1 (s.acc ^^^ s.peek s.eaHl) s :=
  (withHl_eq_next h).imp id fun e => (Host.Outcome.next.inj e).symm

theorem exec_exa_next (x : Byte) (h : exec (.exa x) s = .next t) :
    isSpecialArea (s.eaDir x) = false ∧
      t = loadAcc 2 (s.peek (s.eaDir x)) (s.poke (s.eaDir x) s.acc) :=
  exchangeData_eq_next h

theorem exec_exah_next (h : exec .exah s = .next t) :
    t = loadAcc 1 s.hr (s.setHr s.acc) :=
  (Host.Outcome.next.inj h).symm

theorem exec_exal_next (h : exec .exal s = .next t) :
    t = loadAcc 1 s.lr (s.setLr s.acc) :=
  (Host.Outcome.next.inj h).symm

theorem exec_exam_next (h : exec .exam s = .next t) :
    isSpecialArea s.eaHl = false ∧ t = loadAcc 1 (s.peek s.eaHl) (s.poke s.eaHl s.acc) :=
  exchangeData_eq_next h

theorem exec_exhl_next (x : BitVec 6) (h : exec (.exhl x) s = .next t) :
    isSpecialArea (s.eaDir (pairLow x)) = false ∧ isSpecialArea (s.eaDir (pairHigh x)) = false ∧
      t = ((((s.poke (s.eaDir (pairLow x)) s.lr).poke (s.eaDir (pairHigh x)) s.hr).setLr
        (s.peek (s.eaDir (pairLow x)))).setHr (s.peek (s.eaDir (pairHigh x)))).flagsSet.advance 2 := by
  obtain ⟨l, hl, h⟩ := onOk_eq_next h
  obtain ⟨a, rfl⟩ := readData_eq_ok hl
  obtain ⟨m, hm, h⟩ := onOk_eq_next h
  obtain ⟨b, rfl⟩ := readData_eq_ok hm
  obtain ⟨u, hu, h⟩ := onOk_eq_next h
  obtain ⟨-, rfl⟩ := writeData_eq_ok hu
  obtain ⟨w, hw, h⟩ := onOk_eq_next h
  obtain ⟨-, rfl⟩ := writeData_eq_ok hw
  exact ⟨a, b, (Host.Outcome.next.inj h).symm⟩

theorem exec_sbr_next (a : BitVec 6) (h : exec (.sbr a) s = .next t) :
    t = (s.setPc (if s.sf then s.shortTarget a else s.nextPc 1)).setSf true :=
  branchTo_eq_next h

theorem exec_lbr_next (a : BitVec 12) (h : exec (.lbr a) s = .next t) :
    t = (s.setPc (if s.sf then s.longTarget a else s.nextPc 2)).setSf true :=
  branchTo_eq_next h

theorem exec_slbrHigh_next (a : BitVec 12) (h : exec (.slbrHigh a) s = .next t) :
    t = (s.setPc (if s.sf then 1#1 ++ a else s.nextPc 3)).setSf true :=
  branchTo_eq_next h

theorem exec_slbrLow_next (a : BitVec 12) (h : exec (.slbrLow a) s = .next t) :
    t = (s.setPc (if s.sf then 0#1 ++ a else s.nextPc 3)).setSf true :=
  branchTo_eq_next h

theorem exec_cmp_next (k : Nibble) (y : Nibble) (h : exec (.cmp k y) s = .next t) :
    isSpecialArea (eaZp y) = false ∧ t = compareEq 2 k (s.peek (eaZp y)) s :=
  onOk_readData_eq_next h

theorem exec_cmpa_next (x : Byte) (h : exec (.cmpa x) s = .next t) :
    isSpecialArea (s.eaDir x) = false ∧ t = compareEq 2 (s.peek (s.eaDir x)) s.acc s :=
  onOk_readData_eq_next h

theorem exec_cmpam_next (h : exec .cmpam s = .next t) :
    isSpecialArea s.eaHl = false ∧ t = compareEq 1 (s.peek s.eaHl) s.acc s :=
  (withHl_eq_next h).imp id fun e => (Host.Outcome.next.inj e).symm

theorem exec_cmph_next (k : Nibble) (h : exec (.cmph k) s = .next t) :
    t = (s.flagsSub (sub4 k s.hr false)).advance 2 :=
  (Host.Outcome.next.inj h).symm

theorem exec_cmpia_next (k : Nibble) (h : exec (.cmpia k) s = .next t) :
    t = compareEq 1 k s.acc s :=
  (Host.Outcome.next.inj h).symm

theorem exec_cmpl_next (k : Nibble) (h : exec (.cmpl k) s = .next t) :
    t = (s.flagsSub (sub4 k s.lr false)).advance 2 :=
  (Host.Outcome.next.inj h).symm

theorem exec_clm_next (b : BitVec 2) (h : exec (.clm b) s = .next t) :
    isSpecialArea s.eaHl = false ∧ ∃ r, r = logic (clearBit (s.peek s.eaHl) b) ∧
      t = (setFlags (s.poke s.eaHl r.val) r).advance 1 :=
  (updateData_eq_next h).imp id fun e => ⟨_, rfl, e⟩

theorem exec_clp_next (p : Nibble) (b : BitVec 2) (h : exec (.clp p b) s = .next t) :
    ∃ u, portOut (portOf p) (clearBit (portLatch (portOf p) s) b) s = .ok u ∧
      t = u.flagsSet.advance 2 :=
  updatePort_eq_next (p := portOf p) (len := 2) (f := fun v => clearBit v b) h

theorem exec_clpl_next (h : exec .clpl s = .next t) :
    ∃ u, portOut s.lrPort (clearBit (portLatch s.lrPort s) s.lrBit) s = .ok u ∧
      t = u.flagsSet.advance 1 :=
  updatePort_eq_next (p := s.lrPort) (len := 1) (f := fun v => clearBit v s.lrBit) h

theorem exec_clr_next (y : Nibble) (b : BitVec 2) (h : exec (.clr y b) s = .next t) :
    isSpecialArea (eaZp y) = false ∧ ∃ r, r = logic (clearBit (s.peek (eaZp y)) b) ∧
      t = (setFlags (s.poke (eaZp y) r.val) r).advance 2 :=
  (updateData_eq_next h).imp id fun e => ⟨_, rfl, e⟩

theorem exec_sem_next (b : BitVec 2) (h : exec (.sem b) s = .next t) :
    isSpecialArea s.eaHl = false ∧ ∃ r, r = logic (setBit (s.peek s.eaHl) b) ∧
      t = (setFlags (s.poke s.eaHl r.val) r).advance 1 :=
  (updateData_eq_next h).imp id fun e => ⟨_, rfl, e⟩

theorem exec_sep_next (p : Nibble) (b : BitVec 2) (h : exec (.sep p b) s = .next t) :
    ∃ u, portOut (portOf p) (setBit (portLatch (portOf p) s) b) s = .ok u ∧
      t = u.flagsSet.advance 2 :=
  updatePort_eq_next (p := portOf p) (len := 2) (f := fun v => setBit v b) h

theorem exec_sepl_next (h : exec .sepl s = .next t) :
    ∃ u, portOut s.lrPort (setBit (portLatch s.lrPort s) s.lrBit) s = .ok u ∧
      t = u.flagsSet.advance 1 :=
  updatePort_eq_next (p := s.lrPort) (len := 1) (f := fun v => setBit v s.lrBit) h

theorem exec_set_next (y : Nibble) (b : BitVec 2) (h : exec (.set y b) s = .next t) :
    isSpecialArea (eaZp y) = false ∧ ∃ r, r = logic (setBit (s.peek (eaZp y)) b) ∧
      t = (setFlags (s.poke (eaZp y) r.val) r).advance 2 :=
  (updateData_eq_next h).imp id fun e => ⟨_, rfl, e⟩

theorem exec_tf_next (y : Nibble) (b : BitVec 2) (h : exec (.tf y b) s = .next t) :
    isSpecialArea (eaZp y) = false ∧ t = (s.setSf (!testBit (s.peek (eaZp y)) b)).advance 2 :=
  onOk_readData_eq_next h

theorem exec_tfa_next (b : BitVec 2) (h : exec (.tfa b) s = .next t) :
    t = (s.setSf (!testBit s.acc b)).advance 1 :=
  (Host.Outcome.next.inj h).symm

theorem exec_tfm_next (b : BitVec 2) (h : exec (.tfm b) s = .next t) :
    isSpecialArea s.eaHl = false ∧ t = (s.setSf (!testBit (s.peek s.eaHl) b)).advance 1 :=
  (withHl_eq_next h).imp id fun e => (Host.Outcome.next.inj e).symm

theorem exec_tfp_next (p : Nibble) (b : BitVec 2) (h : exec (.tfp p b) s = .next t) :
    ∃ v, portIn (portOf p) s = .ok v ∧ t = (s.drawn.setSf (!testBit v b)).advance 2 :=
  testPort_eq_next h

theorem exec_tfpl_next (h : exec .tfpl s = .next t) :
    ∃ v, portIn s.lrPort s = .ok v ∧ t = (s.drawn.setSf (!testBit v s.lrBit)).advance 1 :=
  testPort_eq_next h

theorem exec_tt_next (y : Nibble) (b : BitVec 2) (h : exec (.tt y b) s = .next t) :
    isSpecialArea (eaZp y) = false ∧ t = (s.setSf (testBit (s.peek (eaZp y)) b)).advance 2 :=
  onOk_readData_eq_next h

theorem exec_ttp_next (p : Nibble) (b : BitVec 2) (h : exec (.ttp p b) s = .next t) :
    ∃ v, portIn (portOf p) s = .ok v ∧ t = (s.drawn.setSf (testBit v b)).advance 2 :=
  testPort_eq_next h

theorem exec_lcall_next (a : BitVec 11) (h : exec (.lcall a) s = .next t) :
    ∃ hs : s.sp.toNat < 13, t = ((s.drawn.setStack
      (s.stack.set s.sp.toNat (s.callEntry (s.nextPc 2)) hs)).setSp (s.sp - 1#4)).setPc (callTarget a) :=
  callTo_eq_next h

theorem exec_scall_next (n : Nibble) (h : exec (.scall n) s = .next t) :
    ∃ hs : s.sp.toNat < 13, t = ((s.drawn.setStack
      (s.stack.set s.sp.toNat (s.callEntry (s.nextPc 1)) hs)).setSp (s.sp - 1#4)).setPc (shortCallTarget n) :=
  callTo_eq_next h

theorem exec_ret_next (h : exec .ret s = .next t) :
    ∃ hs : (s.sp + 1#4).toNat < 13,
      t = (s.setSp (s.sp + 1#4)).setPc (s.stack[(s.sp + 1#4).toNat]'hs).pc := by
  obtain ⟨⟨e, u⟩, hu, ht⟩ := onOk_eq_next h
  obtain ⟨hs, rfl, rfl⟩ := popEntry_eq_ok hu
  exact ⟨hs, (Host.Outcome.next.inj ht).symm⟩

theorem exec_ina_next (p : Nibble) (h : exec (.ina p) s = .next t) :
    ∃ v, portIn (portOf p) s = .ok v ∧ t = ((s.drawn.setAcc v).flagsLogic v).advance 2 := by
  obtain ⟨v, hv, ht⟩ := onOk_eq_next h
  exact ⟨v, hv, (Host.Outcome.next.inj ht).symm⟩

theorem exec_inm_next (p : Nibble) (h : exec (.inm p) s = .next t) :
    ∃ v, portIn (portOf p) s = .ok v ∧ isSpecialArea s.eaHl = false ∧
      t = ((s.drawn.poke s.eaHl v).setSf (!isZero v)).advance 2 := by
  obtain ⟨v, hv, ht⟩ := onOk_eq_next h
  obtain ⟨u, hu, ht⟩ := onOk_eq_next ht
  obtain ⟨a, rfl⟩ := writeData_eq_ok hu
  exact ⟨v, hv, a, (Host.Outcome.next.inj ht).symm⟩

theorem exec_out_next (k : Nibble) (p : Nibble) (h : exec (.out k p) s = .next t) :
    ∃ u, portOut (portOf p) k s = .ok u ∧ t = u.flagsSet.advance 2 :=
  outputTo_eq_next h

theorem exec_outa_next (p : BitVec 5) (h : exec (.outa p) s = .next t) :
    ∃ u, portOut p s.acc s = .ok u ∧ t = u.flagsSet.advance 2 :=
  outputTo_eq_next h

theorem exec_outm_next (p : BitVec 5) (h : exec (.outm p) s = .next t) :
    isSpecialArea s.eaHl = false ∧ ∃ u, portOut p (s.peek s.eaHl) s = .ok u ∧
      t = u.flagsSet.advance 2 :=
  (withHl_eq_next h).imp id outputTo_eq_next

theorem exec_tfcfc_next (h : exec .tfcfc s = .next t) :
    t = ((s.setSf (!s.cf)).setCf false).advance 1 :=
  (Host.Outcome.next.inj h).symm

theorem exec_ttcfs_next (h : exec .ttcfs s = .next t) :
    t = ((s.setSf s.cf).setCf true).advance 1 :=
  (Host.Outcome.next.inj h).symm

theorem exec_tzs_next (h : exec .tzs s = .next t) :
    t = (s.setSf s.zf).advance 1 :=
  (Host.Outcome.next.inj h).symm

theorem exec_cil_next (r : BitVec 6) (h : exec (.cil r) s = .next t) :
    t = (s.setIl (s.il &&& r)).flagsSet.advance 2 :=
  (Host.Outcome.next.inj h).symm

theorem exec_dicil_next (r : BitVec 6) (h : exec (.dicil r) s = .next t) :
    t = ((s.setEi false).setIl (s.il &&& r)).flagsSet.advance 2 :=
  (Host.Outcome.next.inj h).symm

theorem exec_eicil_next (r : BitVec 6) (h : exec (.eicil r) s = .next t) :
    t = ((s.setEi true).setIl (s.il &&& r)).flagsSet.advance 2 :=
  (Host.Outcome.next.inj h).symm

theorem exec_exae_next (h : exec .exae s = .next t) :
    t = ((s.setMask s.acc).setAcc s.mask).flagsSet.advance 1 :=
  (Host.Outcome.next.inj h).symm

theorem exec_rti_next (h : exec .rti s = .next t) :
    ∃ hs : (s.sp + 1#4).toNat < 13,
      t = (((((s.setSp (s.sp + 1#4)).setPc (s.stack[(s.sp + 1#4).toNat]'hs).pc).setCf
        (s.stack[(s.sp + 1#4).toNat]'hs).cf).setZf (s.stack[(s.sp + 1#4).toNat]'hs).zf).setSf
          (s.stack[(s.sp + 1#4).toNat]'hs).sf).setEi true :=
  returnFromInterrupt_eq_next h

theorem exec_nop_next (h : exec .nop s = .next t) :
    t = s.advance 1 :=
  (Host.Outcome.next.inj h).symm

theorem exec_ldatal_next (h : exec .ldatal s = .next t) :
    ∃ v, readDirect 0xF4#8 s = .ok v ∧ t = ((s.setAcc v).flagsLoad v).advance 2 :=
  loadDirect_eq_next h

theorem exec_ldatam_next (h : exec .ldatam s = .next t) :
    ∃ v, readDirect 0xF5#8 s = .ok v ∧ t = ((s.setAcc v).flagsLoad v).advance 2 :=
  loadDirect_eq_next h

theorem exec_ldatah_next (h : exec .ldatah s = .next t) :
    ∃ v, readDirect 0xF6#8 s = .ok v ∧ t = ((s.setAcc v).flagsLoad v).advance 2 :=
  loadDirect_eq_next h

theorem exec_ldatbl_next (h : exec .ldatbl s = .next t) :
    ∃ v, readDirect 0xF8#8 s = .ok v ∧ t = ((s.setAcc v).flagsLoad v).advance 2 :=
  loadDirect_eq_next h

theorem exec_ldatbm_next (h : exec .ldatbm s = .next t) :
    ∃ v, readDirect 0xF9#8 s = .ok v ∧ t = ((s.setAcc v).flagsLoad v).advance 2 :=
  loadDirect_eq_next h

theorem exec_ldatbh_next (h : exec .ldatbh s = .next t) :
    ∃ v, readDirect 0xFA#8 s = .ok v ∧ t = ((s.setAcc v).flagsLoad v).advance 2 :=
  loadDirect_eq_next h

theorem exec_ldadpl_next (h : exec .ldadpl s = .next t) :
    ∃ v, readDirect 0xFC#8 s = .ok v ∧ t = ((s.setAcc v).flagsLoad v).advance 2 :=
  loadDirect_eq_next h

theorem exec_ldadpm_next (h : exec .ldadpm s = .next t) :
    ∃ v, readDirect 0xFD#8 s = .ok v ∧ t = ((s.setAcc v).flagsLoad v).advance 2 :=
  loadDirect_eq_next h

theorem exec_ldadph_next (h : exec .ldadph s = .next t) :
    ∃ v, readDirect 0xFE#8 s = .ok v ∧ t = ((s.setAcc v).flagsLoad v).advance 2 :=
  loadDirect_eq_next h

theorem exec_ldasp_next (h : exec .ldasp s = .next t) :
    ∃ v, readDirect 0xFF#8 s = .ok v ∧ t = ((s.setAcc v).flagsLoad v).advance 2 :=
  loadDirect_eq_next h

theorem exec_statal_next (h : exec .statal s = .next t) :
    ∃ u, writeDirect 0xF4#8 s.acc s = .ok u ∧ t = u.flagsSet.advance 2 :=
  storeDirect_eq_next h

theorem exec_statam_next (h : exec .statam s = .next t) :
    ∃ u, writeDirect 0xF5#8 s.acc s = .ok u ∧ t = u.flagsSet.advance 2 :=
  storeDirect_eq_next h

theorem exec_statah_next (h : exec .statah s = .next t) :
    ∃ u, writeDirect 0xF6#8 s.acc s = .ok u ∧ t = u.flagsSet.advance 2 :=
  storeDirect_eq_next h

theorem exec_statbl_next (h : exec .statbl s = .next t) :
    ∃ u, writeDirect 0xF8#8 s.acc s = .ok u ∧ t = u.flagsSet.advance 2 :=
  storeDirect_eq_next h

theorem exec_statbm_next (h : exec .statbm s = .next t) :
    ∃ u, writeDirect 0xF9#8 s.acc s = .ok u ∧ t = u.flagsSet.advance 2 :=
  storeDirect_eq_next h

theorem exec_statbh_next (h : exec .statbh s = .next t) :
    ∃ u, writeDirect 0xFA#8 s.acc s = .ok u ∧ t = u.flagsSet.advance 2 :=
  storeDirect_eq_next h

theorem exec_stadpl_next (h : exec .stadpl s = .next t) :
    ∃ u, writeDirect 0xFC#8 s.acc s = .ok u ∧ t = u.flagsSet.advance 2 :=
  storeDirect_eq_next h

theorem exec_stadpm_next (h : exec .stadpm s = .next t) :
    ∃ u, writeDirect 0xFD#8 s.acc s = .ok u ∧ t = u.flagsSet.advance 2 :=
  storeDirect_eq_next h

theorem exec_stadph_next (h : exec .stadph s = .next t) :
    ∃ u, writeDirect 0xFE#8 s.acc s = .ok u ∧ t = u.flagsSet.advance 2 :=
  storeDirect_eq_next h

theorem exec_stasp_next (h : exec .stasp s = .next t) :
    ∃ u, writeDirect 0xFF#8 s.acc s = .ok u ∧ t = u.flagsSet.advance 2 :=
  storeDirect_eq_next h

end Sys2Proof.Machine
end

