-- ==== Sys2Proof/Laws/PerInstr.lean ====
section
/-! SUPPORT. One family of statements per instruction: the encoder writes as many bytes as the instruction is
long (R100, R101). -/

/-- The encoding of an instruction has the length of its format (R100). -/
def Sys2Proof.Laws.EncodedLength.Statement (i : Sys2Proof.Instr) : Prop := i.encode.length = i.length

theorem Sys2Proof.Laws.EncodedLength.lda (x : Sys2Proof.Byte) :
    Sys2Proof.Laws.EncodedLength.Statement (Sys2Proof.Instr.lda x) := rfl
theorem Sys2Proof.Laws.EncodedLength.ldam :
    Sys2Proof.Laws.EncodedLength.Statement Sys2Proof.Instr.ldam := rfl
theorem Sys2Proof.Laws.EncodedLength.ldax :
    Sys2Proof.Laws.EncodedLength.Statement Sys2Proof.Instr.ldax := rfl
theorem Sys2Proof.Laws.EncodedLength.ldaxi :
    Sys2Proof.Laws.EncodedLength.Statement Sys2Proof.Instr.ldaxi := rfl
theorem Sys2Proof.Laws.EncodedLength.ldh (k : Sys2Proof.Nibble) :
    Sys2Proof.Laws.EncodedLength.Statement (Sys2Proof.Instr.ldh k) := rfl
theorem Sys2Proof.Laws.EncodedLength.ldhl (x : BitVec 6) :
    Sys2Proof.Laws.EncodedLength.Statement (Sys2Proof.Instr.ldhl x) := rfl
theorem Sys2Proof.Laws.EncodedLength.ldia (k : Sys2Proof.Nibble) :
    Sys2Proof.Laws.EncodedLength.Statement (Sys2Proof.Instr.ldia k) := rfl
theorem Sys2Proof.Laws.EncodedLength.ldl (k : Sys2Proof.Nibble) :
    Sys2Proof.Laws.EncodedLength.Statement (Sys2Proof.Instr.ldl k) := rfl
theorem Sys2Proof.Laws.EncodedLength.sta (x : Sys2Proof.Byte) :
    Sys2Proof.Laws.EncodedLength.Statement (Sys2Proof.Instr.sta x) := rfl
theorem Sys2Proof.Laws.EncodedLength.stam :
    Sys2Proof.Laws.EncodedLength.Statement Sys2Proof.Instr.stam := rfl
theorem Sys2Proof.Laws.EncodedLength.stamd :
    Sys2Proof.Laws.EncodedLength.Statement Sys2Proof.Instr.stamd := rfl
theorem Sys2Proof.Laws.EncodedLength.stami :
    Sys2Proof.Laws.EncodedLength.Statement Sys2Proof.Instr.stami := rfl
theorem Sys2Proof.Laws.EncodedLength.std (k : Sys2Proof.Nibble) (y : Sys2Proof.Nibble) :
    Sys2Proof.Laws.EncodedLength.Statement (Sys2Proof.Instr.std k y) := rfl
theorem Sys2Proof.Laws.EncodedLength.stdmi (k : Sys2Proof.Nibble) :
    Sys2Proof.Laws.EncodedLength.Statement (Sys2Proof.Instr.stdmi k) := rfl
theorem Sys2Proof.Laws.EncodedLength.tha :
    Sys2Proof.Laws.EncodedLength.Statement Sys2Proof.Instr.tha := rfl
theorem Sys2Proof.Laws.EncodedLength.tla :
    Sys2Proof.Laws.EncodedLength.Statement Sys2Proof.Instr.tla := rfl
theorem Sys2Proof.Laws.EncodedLength.rlca :
    Sys2Proof.Laws.EncodedLength.Statement Sys2Proof.Instr.rlca := rfl
theorem Sys2Proof.Laws.EncodedLength.rrca :
    Sys2Proof.Laws.EncodedLength.Statement Sys2Proof.Instr.rrca := rfl
theorem Sys2Proof.Laws.EncodedLength.adcam :
    Sys2Proof.Laws.EncodedLength.Statement Sys2Proof.Instr.adcam := rfl
theorem Sys2Proof.Laws.EncodedLength.add (k : Sys2Proof.Nibble) (y : Sys2Proof.Nibble) :
    Sys2Proof.Laws.EncodedLength.Statement (Sys2Proof.Instr.add k y) := rfl
theorem Sys2Proof.Laws.EncodedLength.adda (k : Sys2Proof.Nibble) :
    Sys2Proof.Laws.EncodedLength.Statement (Sys2Proof.Instr.adda k) := rfl
theorem Sys2Proof.Laws.EncodedLength.addam :
    Sys2Proof.Laws.EncodedLength.Statement Sys2Proof.Instr.addam := rfl
theorem Sys2Proof.Laws.EncodedLength.addh (k : Sys2Proof.Nibble) :
    Sys2Proof.Laws.EncodedLength.Statement (Sys2Proof.Instr.addh k) := rfl
theorem Sys2Proof.Laws.EncodedLength.addl (k : Sys2Proof.Nibble) :
    Sys2Proof.Laws.EncodedLength.Statement (Sys2Proof.Instr.addl k) := rfl
theorem Sys2Proof.Laws.EncodedLength.addm (k : Sys2Proof.Nibble) :
    Sys2Proof.Laws.EncodedLength.Statement (Sys2Proof.Instr.addm k) := rfl
theorem Sys2Proof.Laws.EncodedLength.deca :
    Sys2Proof.Laws.EncodedLength.Statement Sys2Proof.Instr.deca := rfl
theorem Sys2Proof.Laws.EncodedLength.decl :
    Sys2Proof.Laws.EncodedLength.Statement Sys2Proof.Instr.decl := rfl
theorem Sys2Proof.Laws.EncodedLength.decm :
    Sys2Proof.Laws.EncodedLength.Statement Sys2Proof.Instr.decm := rfl
theorem Sys2Proof.Laws.EncodedLength.inca :
    Sys2Proof.Laws.EncodedLength.Statement Sys2Proof.Instr.inca := rfl
theorem Sys2Proof.Laws.EncodedLength.incl :
    Sys2Proof.Laws.EncodedLength.Statement Sys2Proof.Instr.incl := rfl
theorem Sys2Proof.Laws.EncodedLength.incm :
    Sys2Proof.Laws.EncodedLength.Statement Sys2Proof.Instr.incm := rfl
theorem Sys2Proof.Laws.EncodedLength.suba (k : Sys2Proof.Nibble) :
    Sys2Proof.Laws.EncodedLength.Statement (Sys2Proof.Instr.suba k) := rfl
theorem Sys2Proof.Laws.EncodedLength.sbcam :
    Sys2Proof.Laws.EncodedLength.Statement Sys2Proof.Instr.sbcam := rfl
theorem Sys2Proof.Laws.EncodedLength.subm (k : Sys2Proof.Nibble) :
    Sys2Proof.Laws.EncodedLength.Statement (Sys2Proof.Instr.subm k) := rfl
theorem Sys2Proof.Laws.EncodedLength.anda (k : Sys2Proof.Nibble) :
    Sys2Proof.Laws.EncodedLength.Statement (Sys2Proof.Instr.anda k) := rfl
theorem Sys2Proof.Laws.EncodedLength.andam :
    Sys2Proof.Laws.EncodedLength.Statement Sys2Proof.Instr.andam := rfl
theorem Sys2Proof.Laws.EncodedLength.andm (k : Sys2Proof.Nibble) :
    Sys2Proof.Laws.EncodedLength.Statement (Sys2Proof.Instr.andm k) := rfl
theorem Sys2Proof.Laws.EncodedLength.ora (k : Sys2Proof.Nibble) :
    Sys2Proof.Laws.EncodedLength.Statement (Sys2Proof.Instr.ora k) := rfl
theorem Sys2Proof.Laws.EncodedLength.oram :
    Sys2Proof.Laws.EncodedLength.Statement Sys2Proof.Instr.oram := rfl
theorem Sys2Proof.Laws.EncodedLength.orm (k : Sys2Proof.Nibble) :
    Sys2Proof.Laws.EncodedLength.Statement (Sys2Proof.Instr.orm k) := rfl
theorem Sys2Proof.Laws.EncodedLength.xoram :
    Sys2Proof.Laws.EncodedLength.Statement Sys2Proof.Instr.xoram := rfl
theorem Sys2Proof.Laws.EncodedLength.exa (x : Sys2Proof.Byte) :
    Sys2Proof.Laws.EncodedLength.Statement (Sys2Proof.Instr.exa x) := rfl
theorem Sys2Proof.Laws.EncodedLength.exah :
    Sys2Proof.Laws.EncodedLength.Statement Sys2Proof.Instr.exah := rfl
theorem Sys2Proof.Laws.EncodedLength.exal :
    Sys2Proof.Laws.EncodedLength.Statement Sys2Proof.Instr.exal := rfl
theorem Sys2Proof.Laws.EncodedLength.exam :
    Sys2Proof.Laws.EncodedLength.Statement Sys2Proof.Instr.exam := rfl
theorem Sys2Proof.Laws.EncodedLength.exhl (x : BitVec 6) :
    Sys2Proof.Laws.EncodedLength.Statement (Sys2Proof.Instr.exhl x) := rfl
theorem Sys2Proof.Laws.EncodedLength.sbr (a : BitVec 6) :
    Sys2Proof.Laws.EncodedLength.Statement (Sys2Proof.Instr.sbr a) := rfl
theorem Sys2Proof.Laws.EncodedLength.lbr (a : BitVec 12) :
    Sys2Proof.Laws.EncodedLength.Statement (Sys2Proof.Instr.lbr a) := rfl
theorem Sys2Proof.Laws.EncodedLength.slbrHigh (a : BitVec 12) :
    Sys2Proof.Laws.EncodedLength.Statement (Sys2Proof.Instr.slbrHigh a) := rfl
theorem Sys2Proof.Laws.EncodedLength.slbrLow (a : BitVec 12) :
    Sys2Proof.Laws.EncodedLength.Statement (Sys2Proof.Instr.slbrLow a) := rfl
theorem Sys2Proof.Laws.EncodedLength.cmp (k : Sys2Proof.Nibble) (y : Sys2Proof.Nibble) :
    Sys2Proof.Laws.EncodedLength.Statement (Sys2Proof.Instr.cmp k y) := rfl
theorem Sys2Proof.Laws.EncodedLength.cmpa (x : Sys2Proof.Byte) :
    Sys2Proof.Laws.EncodedLength.Statement (Sys2Proof.Instr.cmpa x) := rfl
theorem Sys2Proof.Laws.EncodedLength.cmpam :
    Sys2Proof.Laws.EncodedLength.Statement Sys2Proof.Instr.cmpam := rfl
theorem Sys2Proof.Laws.EncodedLength.cmph (k : Sys2Proof.Nibble) :
    Sys2Proof.Laws.EncodedLength.Statement (Sys2Proof.Instr.cmph k) := rfl
theorem Sys2Proof.Laws.EncodedLength.cmpia (k : Sys2Proof.Nibble) :
    Sys2Proof.Laws.EncodedLength.Statement (Sys2Proof.Instr.cmpia k) := rfl
theorem Sys2Proof.Laws.EncodedLength.cmpl (k : Sys2Proof.Nibble) :
    Sys2Proof.Laws.EncodedLength.Statement (Sys2Proof.Instr.cmpl k) := rfl
theorem Sys2Proof.Laws.EncodedLength.clm (b : BitVec 2) :
    Sys2Proof.Laws.EncodedLength.Statement (Sys2Proof.Instr.clm b) := rfl
theorem Sys2Proof.Laws.EncodedLength.clp (p : Sys2Proof.Nibble) (b : BitVec 2) :
    Sys2Proof.Laws.EncodedLength.Statement (Sys2Proof.Instr.clp p b) := rfl
theorem Sys2Proof.Laws.EncodedLength.clpl :
    Sys2Proof.Laws.EncodedLength.Statement Sys2Proof.Instr.clpl := rfl
theorem Sys2Proof.Laws.EncodedLength.clr (y : Sys2Proof.Nibble) (b : BitVec 2) :
    Sys2Proof.Laws.EncodedLength.Statement (Sys2Proof.Instr.clr y b) := rfl
theorem Sys2Proof.Laws.EncodedLength.sem (b : BitVec 2) :
    Sys2Proof.Laws.EncodedLength.Statement (Sys2Proof.Instr.sem b) := rfl
theorem Sys2Proof.Laws.EncodedLength.sep (p : Sys2Proof.Nibble) (b : BitVec 2) :
    Sys2Proof.Laws.EncodedLength.Statement (Sys2Proof.Instr.sep p b) := rfl
theorem Sys2Proof.Laws.EncodedLength.sepl :
    Sys2Proof.Laws.EncodedLength.Statement Sys2Proof.Instr.sepl := rfl
theorem Sys2Proof.Laws.EncodedLength.set (y : Sys2Proof.Nibble) (b : BitVec 2) :
    Sys2Proof.Laws.EncodedLength.Statement (Sys2Proof.Instr.set y b) := rfl
theorem Sys2Proof.Laws.EncodedLength.tf (y : Sys2Proof.Nibble) (b : BitVec 2) :
    Sys2Proof.Laws.EncodedLength.Statement (Sys2Proof.Instr.tf y b) := rfl
theorem Sys2Proof.Laws.EncodedLength.tfa (b : BitVec 2) :
    Sys2Proof.Laws.EncodedLength.Statement (Sys2Proof.Instr.tfa b) := rfl
theorem Sys2Proof.Laws.EncodedLength.tfm (b : BitVec 2) :
    Sys2Proof.Laws.EncodedLength.Statement (Sys2Proof.Instr.tfm b) := rfl
theorem Sys2Proof.Laws.EncodedLength.tfp (p : Sys2Proof.Nibble) (b : BitVec 2) :
    Sys2Proof.Laws.EncodedLength.Statement (Sys2Proof.Instr.tfp p b) := rfl
theorem Sys2Proof.Laws.EncodedLength.tfpl :
    Sys2Proof.Laws.EncodedLength.Statement Sys2Proof.Instr.tfpl := rfl
theorem Sys2Proof.Laws.EncodedLength.tt (y : Sys2Proof.Nibble) (b : BitVec 2) :
    Sys2Proof.Laws.EncodedLength.Statement (Sys2Proof.Instr.tt y b) := rfl
theorem Sys2Proof.Laws.EncodedLength.ttp (p : Sys2Proof.Nibble) (b : BitVec 2) :
    Sys2Proof.Laws.EncodedLength.Statement (Sys2Proof.Instr.ttp p b) := rfl
theorem Sys2Proof.Laws.EncodedLength.lcall (a : BitVec 11) :
    Sys2Proof.Laws.EncodedLength.Statement (Sys2Proof.Instr.lcall a) := rfl
theorem Sys2Proof.Laws.EncodedLength.scall (n : Sys2Proof.Nibble) :
    Sys2Proof.Laws.EncodedLength.Statement (Sys2Proof.Instr.scall n) := rfl
theorem Sys2Proof.Laws.EncodedLength.ret :
    Sys2Proof.Laws.EncodedLength.Statement Sys2Proof.Instr.ret := rfl
theorem Sys2Proof.Laws.EncodedLength.ina (p : Sys2Proof.Nibble) :
    Sys2Proof.Laws.EncodedLength.Statement (Sys2Proof.Instr.ina p) := rfl
theorem Sys2Proof.Laws.EncodedLength.inm (p : Sys2Proof.Nibble) :
    Sys2Proof.Laws.EncodedLength.Statement (Sys2Proof.Instr.inm p) := rfl
theorem Sys2Proof.Laws.EncodedLength.out (k : Sys2Proof.Nibble) (p : Sys2Proof.Nibble) :
    Sys2Proof.Laws.EncodedLength.Statement (Sys2Proof.Instr.out k p) := rfl
theorem Sys2Proof.Laws.EncodedLength.outa (p : BitVec 5) :
    Sys2Proof.Laws.EncodedLength.Statement (Sys2Proof.Instr.outa p) := rfl
theorem Sys2Proof.Laws.EncodedLength.outm (p : BitVec 5) :
    Sys2Proof.Laws.EncodedLength.Statement (Sys2Proof.Instr.outm p) := rfl
theorem Sys2Proof.Laws.EncodedLength.tfcfc :
    Sys2Proof.Laws.EncodedLength.Statement Sys2Proof.Instr.tfcfc := rfl
theorem Sys2Proof.Laws.EncodedLength.ttcfs :
    Sys2Proof.Laws.EncodedLength.Statement Sys2Proof.Instr.ttcfs := rfl
theorem Sys2Proof.Laws.EncodedLength.tzs :
    Sys2Proof.Laws.EncodedLength.Statement Sys2Proof.Instr.tzs := rfl
theorem Sys2Proof.Laws.EncodedLength.cil (r : BitVec 6) :
    Sys2Proof.Laws.EncodedLength.Statement (Sys2Proof.Instr.cil r) := rfl
theorem Sys2Proof.Laws.EncodedLength.dicil (r : BitVec 6) :
    Sys2Proof.Laws.EncodedLength.Statement (Sys2Proof.Instr.dicil r) := rfl
theorem Sys2Proof.Laws.EncodedLength.eicil (r : BitVec 6) :
    Sys2Proof.Laws.EncodedLength.Statement (Sys2Proof.Instr.eicil r) := rfl
theorem Sys2Proof.Laws.EncodedLength.exae :
    Sys2Proof.Laws.EncodedLength.Statement Sys2Proof.Instr.exae := rfl
theorem Sys2Proof.Laws.EncodedLength.rti :
    Sys2Proof.Laws.EncodedLength.Statement Sys2Proof.Instr.rti := rfl
theorem Sys2Proof.Laws.EncodedLength.nop :
    Sys2Proof.Laws.EncodedLength.Statement Sys2Proof.Instr.nop := rfl
theorem Sys2Proof.Laws.EncodedLength.ldatal :
    Sys2Proof.Laws.EncodedLength.Statement Sys2Proof.Instr.ldatal := rfl
theorem Sys2Proof.Laws.EncodedLength.ldatam :
    Sys2Proof.Laws.EncodedLength.Statement Sys2Proof.Instr.ldatam := rfl
theorem Sys2Proof.Laws.EncodedLength.ldatah :
    Sys2Proof.Laws.EncodedLength.Statement Sys2Proof.Instr.ldatah := rfl
theorem Sys2Proof.Laws.EncodedLength.ldatbl :
    Sys2Proof.Laws.EncodedLength.Statement Sys2Proof.Instr.ldatbl := rfl
theorem Sys2Proof.Laws.EncodedLength.ldatbm :
    Sys2Proof.Laws.EncodedLength.Statement Sys2Proof.Instr.ldatbm := rfl
theorem Sys2Proof.Laws.EncodedLength.ldatbh :
    Sys2Proof.Laws.EncodedLength.Statement Sys2Proof.Instr.ldatbh := rfl
theorem Sys2Proof.Laws.EncodedLength.ldadpl :
    Sys2Proof.Laws.EncodedLength.Statement Sys2Proof.Instr.ldadpl := rfl
theorem Sys2Proof.Laws.EncodedLength.ldadpm :
    Sys2Proof.Laws.EncodedLength.Statement Sys2Proof.Instr.ldadpm := rfl
theorem Sys2Proof.Laws.EncodedLength.ldadph :
    Sys2Proof.Laws.EncodedLength.Statement Sys2Proof.Instr.ldadph := rfl
theorem Sys2Proof.Laws.EncodedLength.ldasp :
    Sys2Proof.Laws.EncodedLength.Statement Sys2Proof.Instr.ldasp := rfl
theorem Sys2Proof.Laws.EncodedLength.statal :
    Sys2Proof.Laws.EncodedLength.Statement Sys2Proof.Instr.statal := rfl
theorem Sys2Proof.Laws.EncodedLength.statam :
    Sys2Proof.Laws.EncodedLength.Statement Sys2Proof.Instr.statam := rfl
theorem Sys2Proof.Laws.EncodedLength.statah :
    Sys2Proof.Laws.EncodedLength.Statement Sys2Proof.Instr.statah := rfl
theorem Sys2Proof.Laws.EncodedLength.statbl :
    Sys2Proof.Laws.EncodedLength.Statement Sys2Proof.Instr.statbl := rfl
theorem Sys2Proof.Laws.EncodedLength.statbm :
    Sys2Proof.Laws.EncodedLength.Statement Sys2Proof.Instr.statbm := rfl
theorem Sys2Proof.Laws.EncodedLength.statbh :
    Sys2Proof.Laws.EncodedLength.Statement Sys2Proof.Instr.statbh := rfl
theorem Sys2Proof.Laws.EncodedLength.stadpl :
    Sys2Proof.Laws.EncodedLength.Statement Sys2Proof.Instr.stadpl := rfl
theorem Sys2Proof.Laws.EncodedLength.stadpm :
    Sys2Proof.Laws.EncodedLength.Statement Sys2Proof.Instr.stadpm := rfl
theorem Sys2Proof.Laws.EncodedLength.stadph :
    Sys2Proof.Laws.EncodedLength.Statement Sys2Proof.Instr.stadph := rfl
theorem Sys2Proof.Laws.EncodedLength.stasp :
    Sys2Proof.Laws.EncodedLength.Statement Sys2Proof.Instr.stasp := rfl
end

