-- ==== Sys2Proof/Laws/Statements.lean ====
section
/-! SUPPORT. The terms of the statements against the model's own functions: stores to data memory, and the
edges of pins. -/

namespace Sys2Proof.Machine

open Sys2Proof.Config

/-! ### Stores -/

theorem vouched_iff (s : State) (a : DataAddr) : Vouched s a ↔ s.unvouched a = false := by
  simp only [Vouched, State.unvouched, mayHoldStack, Bool.and_eq_false_iff, decide_eq_false_iff_not]
  cases s.opts.stackMap <;> simp

/-- A state whose memory is that after one store satisfies `StoredOnly`. -/
theorem storedOnly_of_poke {a : DataAddr} {v : Nibble} {s t : State} (hr : t.ram = (s.poke a v).ram)
    (hs : t.stack = (s.poke a v).stack) (ho : t.opts = s.opts) : StoredOnly a v s t := by
  have hp : ∀ b, t.peek b = (s.poke a v).peek b :=
    fun b => State.peek_congr hr hs (by rw [ho, State.poke_eq]) b
  refine ⟨fun hv => ?_, fun b hb hv => ?_, fun hv hn => ?_, fun l q hq k hk => ?_⟩
  · rw [hp, State.peek_poke_same s a v ((vouched_iff s a).1 hv)]
  · rw [hp, State.peek_poke_other s v hb]
    exact hv.imp (vouched_iff s a).1 (vouched_iff s b).1
  · rw [hs, State.poke_stack s v ((vouched_iff s a).1 hv) hn]
  · rw [hs, State.poke_of_some s v hq]
    have : l.val ≠ k.val := fun e => hk (Fin.ext e.symm)
    simp [this]

/-- A state whose memory is that after two stores at different addresses satisfies `StoredOnlyPair`. -/
theorem storedOnlyPair_of_poke {a b : DataAddr} {v w : Nibble} {s t : State} (hab : a ≠ b)
    (hr : t.ram = ((s.poke a v).poke b w).ram) (hs : t.stack = ((s.poke a v).poke b w).stack)
    (ho : t.opts = s.opts) : StoredOnlyPair a v b w s t := by
  have hp : ∀ c, t.peek c = ((s.poke a v).poke b w).peek c :=
    fun c => State.peek_congr hr hs (by rw [ho, State.poke_eq, State.poke_eq s]) c
  simp only [StoredOnlyPair, vouched_iff]
  refine ⟨fun h => ?_, fun h => ?_, fun c hca hcb h => ?_, fun k ha hb hka hkb => ?_⟩
  · rw [hp, State.peek_poke_other _ w hab (.inr (by simpa using h)), State.peek_poke_same s a v h]
  · rw [hp, State.peek_poke_same _ b w (by simpa using h)]
  · have h1 : s.unvouched b = false ∨ s.unvouched c = false := h.imp And.right id
    rw [hp, State.peek_poke_other _ w hcb (by simpa using h1),
      State.peek_poke_other s v hca (h.imp And.left id)]
  · have key : ∀ (u : State) (c : DataAddr) (x : Nibble), u.unvouched c = false →
        (∀ q, u.stackSlot c ≠ some (k, q)) → (u.poke c x).stack[k.val] = u.stack[k.val] := by
      intro u c x hu hk
      cases hc : u.stackSlot c with
      | none => rw [State.poke_stack u x hu hc]
      | some p =>
        obtain ⟨l, q⟩ := p
        rw [State.poke_of_some u x hc]
        have : l.val ≠ k.val := fun e => hk q (by rw [hc, Fin.ext e])
        simp [this]
    rw [hs, key _ b w (by simpa using hb) (by simpa using hkb), key s a v ha hka]

/-! ### Edges -/

theorem edgeOn_eq_transition (e : Edge) (old new : Nibble) (b : Nat) (hb : b < 4) :
    edgeOn e old new b = transition e old new b := by
  cases e <;> simp [edgeOn, transition, risen, fallen, hb]

theorem wakeEdges_mem (e : Edge) (o : Option WakeEdge) : e ∈ wakeEdges o ↔ edgeReleases e o = true := by
  rcases o with _ | o
  · cases e <;> simp [wakeEdges, edgeReleases]
  · cases o <;> cases e <;> simp [wakeEdges, edgeReleases]

theorem input_mem (e : Edge) (o : Option Edge) : e ∈ o.toList ↔ inputReleases e o = true := by
  simp [inputReleases]

theorem nibbleOf_getLsbD (b3 b2 b1 b0 : Bool) (b : Nat) :
    (nibbleOf b3 b2 b1 b0).getLsbD b =
      match b with
      | 0 => b0
      | 1 => b1
      | 2 => b2
      | 3 => b3
      | _ => false := by
  rcases b with _ | _ | _ | _ | b
  iterate 4 revert b3 b2 b1 b0; decide
  simp [nibbleOf]

/-- The bits of the release mask are the edges the mask options give the pins. -/
theorem releaseMask_getLsbD (o : Options) (e : Edge) (p : PinPort) (b : Nat) :
    (releaseMask o e p).getLsbD b = true ↔ e ∈ releaseEdges o p b := by
  cases p <;> rcases b with _ | _ | _ | _ | b <;>
    simp only [releaseMask, releaseEdges, inputMask, nibbleOf_getLsbD, wakeEdges_mem, input_mem] <;>
    first
      | rfl
      | simp
      | (cases o.p40 <;> simp [p40Wake, edgeReleases, wakeEdges_mem])

/-- A change of levels releases by an enabled wake-up pin exactly where the model says so. -/
theorem wakes_iff_releases (s : State) (p : PinPort) (v : Nibble) :
    wakes s.opts p (pinsOf s.pins p) v = true ↔ Releases s p v := by
  have any : ∀ x : Nibble, (x != 0#4) = true ↔ ∃ b, b < 4 ∧ x.getLsbD b = true := by
    intro x
    simp only [bne_iff_ne, ne_eq]
    constructor
    · intro h
      by_contra hn
      refine h (BitVec.eq_of_getLsbD_eq fun i hi => ?_)
      have := mt (fun hx => (⟨i, hi, hx⟩ : ∃ b, b < 4 ∧ x.getLsbD b = true)) hn
      simpa using this
    · rintro ⟨b, -, h⟩ rfl
      simp at h
  unfold wakes Releases
  rw [any]
  constructor
  · rintro ⟨b, hb, h⟩
    simp only [BitVec.getLsbD_or, BitVec.getLsbD_and, Bool.or_eq_true, Bool.and_eq_true] at h
    rcases h with ⟨h1, h2⟩ | ⟨h1, h2⟩
    · exact ⟨b, .rising, (releaseMask_getLsbD _ _ _ _).1 h2, by
        rw [← edgeOn_eq_transition _ _ _ _ hb]; exact h1⟩
    · exact ⟨b, .falling, (releaseMask_getLsbD _ _ _ _).1 h2, by
        rw [← edgeOn_eq_transition _ _ _ _ hb]; exact h1⟩
  · rintro ⟨b, e, he, ht⟩
    have hm := (releaseMask_getLsbD _ _ _ _).2 he
    have hb : b < 4 := BitVec.lt_of_getLsbD hm
    rw [← edgeOn_eq_transition _ _ _ _ hb] at ht
    refine ⟨b, hb, ?_⟩
    simp only [BitVec.getLsbD_or, BitVec.getLsbD_and, Bool.or_eq_true, Bool.and_eq_true]
    cases e
    · exact .inl ⟨ht, hm⟩
    · exact .inr ⟨ht, hm⟩

end Sys2Proof.Machine
end

