-- ==== Sys2Proof/Tests/Slice0.lean ====
section
/-! SUPPORT. Tests: well-formedness, the decoding of every constructor from words written out from the
encodings of spec/30_encoding.md R101 and the instruction rules, one step per instruction with the values of the
rules' examples and of spec/95_test_vectors.md, and a witness for the hypotheses of every statement. -/

namespace Sys2Proof.Tests

open Sys2Proof Sys2Proof.Machine Sys2Proof.Config

/-- The result is a next state with this property. -/
def ends (r : Res) (p : State → Bool) : Bool :=
  match r with
  | .next t => p t
  | .fault _ => false
  | .refused _ => false

/-- The result is this fault. -/
def stops (r : Res) (f : Fault) : Bool :=
  match r with
  | .next _ => false
  | .fault g => g == f
  | .refused _ => false

/-- The bytes are exactly the instruction. -/
def reads (row : List Byte × Instr) : Bool :=
  match decodeBytes row.1 with
  | .ok (i, []) => i == row.2
  | .ok (_, _ :: _) => false
  | .error _ => false

/-- The bytes are rejected by this name. -/
def rejects (row : List Byte × DecodeError) : Bool :=
  match decodeBytes row.1 with
  | .ok _ => false
  | .error e => e == row.2

/-- A state at 0200h with SF = 0, as the vectors have it. -/
def base : State := { State.reset with pc := 0x0200#13, sf := false }

/-- `STACK_RAM_MAP` given, the stack apart from RAM. -/
def apart (s : State) : State := { s with opts := { s.opts with stackMap := some [] } }

/-- Every wake-up disabled in the mask options. -/
def noWake (o : Options) : Options :=
  { o with
    p0Wake := .all none, p2Wake := .all none, p40 := .port, p41Wake := none, p423Wake := none,
    p5Wake := none, p70Wake := none, p80Wake := none, p81Wake := none, p82Wake := none }

/-- Bank 1 selected. -/
def bank1 (s : State) : State := { s with latch := { s.latch with p9 := 0x8#4 } }

/-- HL pointing at h:l. -/
def hl (h l : Nibble) (s : State) : State := { s with hr := h, lr := l }

/-- A ROM byte placed at an address. -/
def romAt (a : RomAddr) (b : Byte) (s : State) : State := { s with rom := placeRom s.rom a [b] }

/-- Several ROM bytes placed from an address. -/
def program (a : RomAddr) (bs : List Byte) (s : State) : State := { s with rom := placeRom s.rom a bs }

/-! ### Well-formedness -/

/-- A byte pair that names a special register is the group-14 instruction, not LDA x or STA x (R106). -/
theorem test_wf_refuses_lda_of_special_register :
    ([0xF4#8, 0xF5#8, 0xF6#8, 0xF8#8, 0xF9#8, 0xFA#8, 0xFC#8, 0xFD#8, 0xFE#8, 0xFF#8].all fun x =>
      !(Instr.lda x).wf) = true := by decide

theorem test_wf_refuses_sta_of_special_register :
    ([0xF4#8, 0xF5#8, 0xF6#8, 0xF8#8, 0xF9#8, 0xFA#8, 0xFC#8, 0xFD#8, 0xFE#8, 0xFF#8].all fun x =>
      !(Instr.sta x).wf) = true := by decide

theorem test_wf_accepts_the_other_addresses :
    ((Instr.lda 0xF7#8).wf && (Instr.sta 0xFB#8).wf && (Instr.lda 0xF3#8).wf && (Instr.exa 0xF4#8).wf) = true := by
  decide

/-! ### Decoding -/

theorem test_decode_data_transfer :
    ([([0b01101010#8, 0b10100101#8], .lda 0xA5#8), ([0b01011010#8], .ldam), ([0b01100101#8], .ldax),
      ([0b01100111#8], .ldaxi), ([0b10011011#8], .ldh 0xB#4),
      ([0b01001110#8, 0b10110100#8], .ldhl 0x2D#6), ([0b11011011#8], .ldia 0xB#4),
      ([0b10001011#8], .ldl 0xB#4), ([0b01101001#8, 0b10100101#8], .sta 0xA5#8), ([0b01011001#8], .stam),
      ([0b01111101#8], .stamd), ([0b01111111#8], .stami),
      ([0b01001000#8, 0b10111110#8], .std 0xB#4 0xE#4), ([0b10101011#8], .stdmi 0xB#4),
      ([0b01110110#8], .tha), ([0b01110100#8], .tla)].all reads) = true := by decide

theorem test_decode_rotate_and_arithmetic :
    ([([0b01010000#8], .rlca), ([0b01010001#8], .rrca), ([0b01110000#8], .adcam),
      ([0b01001001#8, 0b10111110#8], .add 0xB#4 0xE#4), ([0b01101110#8, 0b01011011#8], .adda 0xB#4),
      ([0b01110001#8], .addam), ([0b01101110#8, 0b10011011#8], .addh 0xB#4),
      ([0b01101110#8, 0b00011011#8], .addl 0xB#4), ([0b01101110#8, 0b11011011#8], .addm 0xB#4),
      ([0b01011100#8], .deca), ([0b01111100#8], .decl), ([0b01011101#8], .decm), ([0b01011110#8], .inca),
      ([0b01111110#8], .incl), ([0b01011111#8], .incm), ([0b01101110#8, 0b01111011#8], .suba 0xB#4),
      ([0b01110010#8], .sbcam), ([0b01101110#8, 0b11111011#8], .subm 0xB#4)].all reads) = true := by decide

theorem test_decode_logical :
    ([([0b01101110#8, 0b01101011#8], .anda 0xB#4), ([0b01111011#8], .andam),
      ([0b01101110#8, 0b11101011#8], .andm 0xB#4), ([0b01101110#8, 0b01001011#8], .ora 0xB#4),
      ([0b01111000#8], .oram), ([0b01101110#8, 0b11001011#8], .orm 0xB#4), ([0b01111001#8], .xoram)].all reads) = true := by decide

theorem test_decode_exchange :
    ([([0b01101000#8, 0b10100101#8], .exa 0xA5#8), ([0b01100110#8], .exah), ([0b01100100#8], .exal),
      ([0b01011000#8], .exam), ([0b01001100#8, 0b10110100#8], .exhl 0x2D#6)].all reads) = true := by decide

theorem test_decode_branch :
    ([([0b00101101#8], .sbr 0x2D#6), ([0b11001001#8, 0b11000110#8], .lbr 0x9C6#12),
      ([0b01010101#8, 0b11001001#8, 0b11000110#8], .slbrHigh 0x9C6#12),
      ([0b01010111#8, 0b11001001#8, 0b11000110#8], .slbrLow 0x9C6#12)].all reads) = true := by decide

theorem test_decode_compare :
    ([([0b01001011#8, 0b10111110#8], .cmp 0xB#4 0xE#4), ([0b01101011#8, 0b10100101#8], .cmpa 0xA5#8),
      ([0b01110011#8], .cmpam), ([0b01101110#8, 0b10111011#8], .cmph 0xB#4),
      ([0b10111011#8], .cmpia 0xB#4), ([0b01101110#8, 0b00111011#8], .cmpl 0xB#4)].all reads) = true := by decide

theorem test_decode_bit_manipulation :
    ([([0b11110010#8], .clm 0x2#2), ([0b01101101#8, 0b11011011#8], .clp 0xB#4 0x1#2),
      ([0b01100000#8], .clpl), ([0b01101100#8, 0b11011011#8], .clr 0xB#4 0x1#2),
      ([0b11110110#8], .sem 0x2#2), ([0b01101101#8, 0b01011011#8], .sep 0xB#4 0x1#2),
      ([0b01100010#8], .sepl), ([0b01101100#8, 0b01011011#8], .set 0xB#4 0x1#2),
      ([0b01101100#8, 0b00011011#8], .tf 0xB#4 0x1#2), ([0b11111010#8], .tfa 0x2#2),
      ([0b11111110#8], .tfm 0x2#2), ([0b01101101#8, 0b00011011#8], .tfp 0xB#4 0x1#2),
      ([0b01100001#8], .tfpl), ([0b01101100#8, 0b10011011#8], .tt 0xB#4 0x1#2),
      ([0b01101101#8, 0b10011011#8], .ttp 0xB#4 0x1#2)].all reads) = true := by decide

theorem test_decode_subroutine :
    ([([0b01000101#8, 0b10100011#8], .lcall 0x5A3#11), ([0b11101011#8], .scall 0xB#4),
      ([0b01001111#8], .ret)].all reads) = true := by decide

theorem test_decode_input_output :
    ([([0b01101111#8, 0b01001011#8], .ina 0xB#4), ([0b01101111#8, 0b11001011#8], .inm 0xB#4),
      ([0b01001010#8, 0b10111110#8], .out 0xB#4 0xE#4), ([0b01101111#8, 0b00011100#8], .outa 0x1C#5),
      ([0b01101111#8, 0b10011100#8], .outm 0x1C#5)].all reads) = true := by decide

theorem test_decode_flags_and_control :
    ([([0b01010011#8], .tfcfc), ([0b01010010#8], .ttcfs), ([0b01011011#8], .tzs),
      ([0b01100011#8, 0b11101101#8], .cil 0x2D#6), ([0b01100011#8, 0b10101101#8], .dicil 0x2D#6),
      ([0b01100011#8, 0b01101101#8], .eicil 0x2D#6), ([0b01110101#8], .exae), ([0b01001101#8], .rti),
      ([0b01010110#8], .nop)].all reads) = true := by decide

theorem test_decode_special_registers :
    ([([0b01101010#8, 0b11110100#8], .ldatal), ([0b01101010#8, 0b11110101#8], .ldatam),
      ([0b01101010#8, 0b11110110#8], .ldatah), ([0b01101010#8, 0b11111000#8], .ldatbl),
      ([0b01101010#8, 0b11111001#8], .ldatbm), ([0b01101010#8, 0b11111010#8], .ldatbh),
      ([0b01101010#8, 0b11111100#8], .ldadpl), ([0b01101010#8, 0b11111101#8], .ldadpm),
      ([0b01101010#8, 0b11111110#8], .ldadph), ([0b01101010#8, 0b11111111#8], .ldasp),
      ([0b01101001#8, 0b11110100#8], .statal), ([0b01101001#8, 0b11110101#8], .statam),
      ([0b01101001#8, 0b11110110#8], .statah), ([0b01101001#8, 0b11111000#8], .statbl),
      ([0b01101001#8, 0b11111001#8], .statbm), ([0b01101001#8, 0b11111010#8], .statbh),
      ([0b01101001#8, 0b11111100#8], .stadpl), ([0b01101001#8, 0b11111101#8], .stadpm),
      ([0b01101001#8, 0b11111110#8], .stadph), ([0b01101001#8, 0b11111111#8], .stasp)].all reads) = true := by decide

/-- The unassigned patterns of R107, each by its name. -/
theorem test_decode_unassigned :
    ([([0x54#8], .unassignedFirstByte), ([0x77#8], .unassignedFirstByte), ([0x7A#8], .unassignedFirstByte),
      ([0x55#8, 0xB0#8, 0x00#8], .prefixWithoutBranch), ([0x57#8, 0x00#8, 0x00#8], .prefixWithoutBranch),
      ([0x63#8, 0x3F#8], .unassignedLatchCode), ([0x4C#8, 0x01#8], .pairAddressNotMultipleOf4),
      ([0x4E#8, 0x12#8], .pairAddressNotMultipleOf4), ([0x6E#8, 0x05#8], .unassignedImmediateCode),
      ([0x6E#8, 0xA0#8], .unassignedImmediateCode), ([0x6F#8, 0x20#8], .unassignedPortCode),
      ([0x6F#8, 0xD0#8], .unassignedPortCode), ([0x48#8], .truncated), ([], .truncated)].all rejects) = true := by
  decide

/-- A table word is one number with the first byte most significant (R112; notes/assumptions/1.md). -/
theorem test_decodeTableWord :
    decodeTableWord 16 0x6A43 = some (.lda 0x43#8) ∧ decodeTableWord 8 0x56 = some .nop ∧
    decodeTableWord 24 0x55C777 = some (.slbrHigh 0x777#12) ∧ decodeTableWord 16 0x6E05 = none := by decide

/-- The step after reset runs the word that was placed. -/
theorem test_withFetchWord :
    ends (step (State.reset.withFetchWord 16 0x6E5D)) (fun t => t.acc == 0xD#4 && t.pc == 2#13) = true := by decide

/-! ### One step per instruction -/

/-- R131, V1.2. -/
theorem test_lda :
    (ends (exec (.lda 0x43#8) (bank1 (base.poke 0x143#9 9#4))) fun t =>
        t.acc == 9#4 && !t.zf && t.sf && t.pc == 0x202#13) = true ∧
    (stops (exec (.lda 0xF7#8) base) .bank0SpecialArea) = true := by decide

/-- R132, V1.6, V1.7. -/
theorem test_ldam :
    (ends (exec .ldam (hl 0xF#4 4#4 (bank1 (base.poke 0x1F4#9 7#4)))) fun t =>
        t.acc == 7#4 && t.sf) = true ∧
    (stops (exec .ldam (hl 0xF#4 4#4 base)) .bank0SpecialArea) = true := by decide

/-- R133, S1. -/
theorem test_ldax :
    (ends (exec .ldax (romAt 0x1777#13 0x56#8 { base with dp := 0x777#12 })) fun t =>
        t.acc == 6#4 && !t.zf && t.dp == 0x777#12) = true := by decide

/-- R134, V1.10. -/
theorem test_ldaxi :
    (ends (exec .ldaxi (romAt 0x1777#13 0x56#8 { base with dp := 0x777#12 })) fun t =>
        t.acc == 5#4 && t.dp == 0x778#12) = true ∧
    (ends (exec .ldaxi (romAt 0x1FFF#13 0x0A#8 { base with dp := 0xFFF#12 })) fun t =>
        t.acc == 0#4 && t.zf && t.dp == 0#12) = true := by decide

/-- V1.12. -/
theorem test_ldh :
    (ends (exec (.ldh 0#4) { base with hr := 7#4 }) fun t =>
        t.hr == 0#4 && !t.zf && t.sf) = true := by decide

/-- R136. -/
theorem test_ldhl :
    (ends (exec (.ldhl 4#6) ((base.poke 0x010#9 2#4).poke 0x011#9 3#4)) fun t =>
        t.lr == 2#4 && t.hr == 3#4 && t.sf && t.pc == 0x202#13) = true := by decide

/-- R137. -/
theorem test_ldia :
    (ends (exec (.ldia 0#4) { base with acc := 9#4, cf := true }) fun t =>
        t.acc == 0#4 && t.zf && t.sf && t.cf) = true := by decide

/-- V1.13. -/
theorem test_ldl :
    (ends (exec (.ldl 0xF#4) base) fun t => t.lr == 0xF#4 && t.sf) = true := by decide

/-- R139. -/
theorem test_sta :
    (ends (exec (.sta 0x23#8) { base with acc := 9#4 }) fun t => t.peek 0x023#9 == 9#4 && t.sf) = true ∧
    (stops (exec (.sta 0xFB#8) base) .bank0SpecialArea) = true := by decide

/-- R140. -/
theorem test_stam :
    (ends (exec .stam (hl 3#4 2#4 { base with acc := 7#4 })) fun t =>
        t.peek 0x032#9 == 7#4 && t.peek 0x132#9 == 0#4 && t.sf) = true := by decide

/-- R141. -/
theorem test_stamd :
    (ends (exec .stamd (hl 3#4 0#4 { base with acc := 5#4 })) fun t =>
        t.peek 0x030#9 == 5#4 && t.lr == 0xF#4 && !t.zf && !t.sf) = true := by decide

/-- R142. -/
theorem test_stami :
    (ends (exec .stami (hl 3#4 0#4 { base with acc := 6#4 })) fun t =>
        t.peek 0x030#9 == 6#4 && t.lr == 1#4 && !t.zf && t.sf) = true := by decide

/-- R143, S5. -/
theorem test_std :
    (ends (exec (.std 0xF#4 5#4) (bank1 base)) fun t =>
        t.peek 0x005#9 == 0xF#4 && t.peek 0x105#9 == 0#4) = true := by decide

/-- R144. -/
theorem test_stdmi :
    (ends (exec (.stdmi 0xA#4) (hl 3#4 5#4 base)) fun t =>
        t.peek 0x035#9 == 0xA#4 && t.lr == 6#4 && !t.zf && t.sf) = true := by decide

/-- R145. -/
theorem test_tha :
    (ends (exec .tha { base with acc := 3#4 }) fun t => t.acc == 0#4 && t.zf && t.sf) = true := by decide

/-- R146. -/
theorem test_tla :
    (ends (exec .tla { base with lr := 0xC#4 }) fun t =>
        t.acc == 0xC#4 && !t.zf && t.sf) = true := by decide

/-- R151. -/
theorem test_rlca :
    (ends (exec .rlca { base with acc := 0b1001#4 }) fun t =>
        t.acc == 0b0010#4 && t.cf && !t.zf && !t.sf) = true := by decide

/-- R152. -/
theorem test_rrca :
    (ends (exec .rrca { base with acc := 0b0100#4, cf := true }) fun t =>
        t.acc == 0b1010#4 && !t.cf && !t.zf && t.sf) = true := by decide

/-- R153. -/
theorem test_adcam :
    (ends (exec .adcam (hl 2#4 0#4 ({ base with acc := 7#4 }.poke 0x020#9 0xF#4))) fun t =>
        t.acc == 6#4 && t.cf && !t.zf && !t.sf) = true ∧
    (ends (exec .adcam (hl 2#4 0#4 ({ base with acc := 0xF#4, cf := true }.poke 0x020#9 0xF#4))) fun t =>
        t.acc == 0xF#4 && t.cf && !t.sf) = true := by decide

/-- R154. -/
theorem test_add :
    (ends (exec (.add 3#4 5#4) (base.poke 0x005#9 0xE#4)) fun t =>
        t.peek 0x005#9 == 1#4 && !t.zf && !t.sf) = true := by decide

/-- R155. -/
theorem test_adda :
    (ends (exec (.adda 0xD#4) { base with acc := 8#4, cf := true }) fun t =>
        t.acc == 5#4 && !t.zf && !t.sf && t.cf) = true := by decide

/-- R156. -/
theorem test_addam :
    (ends (exec .addam (hl 2#4 0#4 ({ base with acc := 8#4, cf := true }.poke 0x020#9 8#4))) fun t =>
        t.acc == 0#4 && t.zf && !t.sf && t.cf) = true := by decide

/-- R157. -/
theorem test_addh :
    (ends (exec (.addh 1#4) { base with hr := 3#4 }) fun t =>
        t.hr == 4#4 && !t.zf && t.sf) = true := by decide

/-- R158. -/
theorem test_addl :
    (ends (exec (.addl 4#4) { base with lr := 0xC#4, hr := 1#4 }) fun t =>
        t.lr == 0#4 && t.hr == 1#4 && t.zf && !t.sf) = true := by decide

/-- R159. -/
theorem test_addm :
    (ends (exec (.addm 6#4) (hl 2#4 0#4 (base.poke 0x020#9 9#4))) fun t =>
        t.peek 0x020#9 == 0xF#4 && !t.zf && t.sf) = true := by decide

/-- R160. -/
theorem test_deca :
    (ends (exec .deca { base with acc := 5#4 }) fun t => t.acc == 4#4 && !t.zf && t.sf) = true ∧
    (ends (exec .deca { base with acc := 0#4, cf := true }) fun t =>
        t.acc == 0xF#4 && !t.sf && t.cf) = true := by decide

/-- R161. -/
theorem test_decl :
    (ends (exec .decl { base with hr := 3#4 }) fun t =>
        t.lr == 0xF#4 && t.hr == 3#4 && !t.zf && !t.sf) = true := by decide

/-- R162. -/
theorem test_decm :
    (ends (exec .decm (hl 2#4 0#4 (base.poke 0x020#9 1#4))) fun t =>
        t.peek 0x020#9 == 0#4 && t.zf && t.sf) = true := by decide

/-- R163. -/
theorem test_inca :
    (ends (exec .inca { base with acc := 0xF#4 }) fun t =>
        t.acc == 0#4 && t.zf && !t.sf) = true := by decide

/-- R164. -/
theorem test_incl :
    (ends (exec .incl { base with lr := 0xF#4 }) fun t =>
        t.lr == 0#4 && t.hr == 0#4 && t.zf && !t.sf) = true := by decide

/-- R165. -/
theorem test_incm :
    (ends (exec .incm (hl 2#4 0#4 (base.poke 0x020#9 3#4))) fun t =>
        t.peek 0x020#9 == 4#4 && !t.zf && t.sf) = true := by decide

/-- R166. -/
theorem test_suba :
    (ends (exec (.suba 8#4) { base with acc := 4#4 }) fun t => t.acc == 4#4 && !t.zf && t.sf) = true ∧
    (ends (exec (.suba 0#4) { base with acc := 3#4 }) fun t => t.acc == 0xD#4 && !t.sf) = true := by decide

/-- R167. -/
theorem test_sbcam :
    (ends (exec .sbcam (hl 2#4 0#4 ({ base with acc := 0xF#4, cf := true }.poke 0x020#9 7#4))) fun t =>
        t.acc == 8#4 && !t.cf && !t.zf && !t.sf) = true := by decide

/-- R168. -/
theorem test_subm :
    (ends (exec (.subm 9#4) (hl 2#4 0#4 (base.poke 0x020#9 9#4))) fun t =>
        t.peek 0x020#9 == 0#4 && t.zf && t.sf) = true := by decide

/-- R181. -/
theorem test_anda :
    (ends (exec (.anda 0b0110#4) { base with acc := 0b1010#4 }) fun t =>
        t.acc == 0b0010#4 && !t.zf && t.sf) = true := by decide

/-- R182. -/
theorem test_andam :
    (ends (exec .andam (hl 2#4 0#4 ({ base with acc := 0xC#4 }.poke 0x020#9 3#4))) fun t =>
        t.acc == 0#4 && t.zf && !t.sf) = true := by decide

/-- R183. -/
theorem test_andm :
    (ends (exec (.andm 9#4) (hl 2#4 0#4 (base.poke 0x020#9 0xF#4))) fun t =>
        t.peek 0x020#9 == 9#4 && !t.zf && t.sf) = true := by decide

/-- R184. -/
theorem test_ora :
    (ends (exec (.ora 8#4) { base with acc := 1#4 }) fun t =>
        t.acc == 9#4 && !t.zf && t.sf) = true := by decide

/-- R185. -/
theorem test_oram :
    (ends (exec .oram (hl 2#4 0#4 ({ base with acc := 4#4 }.poke 0x020#9 1#4))) fun t =>
        t.acc == 5#4 && !t.zf && t.sf) = true := by decide

/-- R186. -/
theorem test_orm :
    (ends (exec (.orm 4#4) (hl 2#4 0#4 (base.poke 0x020#9 2#4))) fun t =>
        t.peek 0x020#9 == 6#4 && !t.zf && t.sf) = true := by decide

/-- R187. -/
theorem test_xoram :
    (ends (exec .xoram (hl 2#4 0#4 ({ base with acc := 0b0101#4 }.poke 0x020#9 0b0011#4))) fun t =>
        t.acc == 0b0110#4 && !t.zf && t.sf) = true := by decide

/-- R191. -/
theorem test_exa :
    (ends (exec (.exa 0x10#8) { base with acc := 5#4 }) fun t =>
        t.acc == 0#4 && t.peek 0x010#9 == 5#4 && t.zf && t.sf) = true := by decide

/-- R192. -/
theorem test_exah :
    (ends (exec .exah { base with acc := 3#4 }) fun t =>
        t.acc == 0#4 && t.hr == 3#4 && t.zf && t.sf) = true := by decide

/-- R193. -/
theorem test_exal :
    (ends (exec .exal { base with lr := 9#4 }) fun t =>
        t.acc == 9#4 && t.lr == 0#4 && !t.zf && t.sf) = true := by decide

/-- R194. -/
theorem test_exam :
    (ends (exec .exam (hl 2#4 0#4 ({ base with acc := 0xA#4 }.poke 0x020#9 1#4))) fun t =>
        t.acc == 1#4 && t.peek 0x020#9 == 0xA#4 && !t.zf) = true := by decide

/-- R195. -/
theorem test_exhl :
    (ends (exec (.exhl 3#6) (hl 3#4 5#4 ((base.poke 0x00C#9 1#4).poke 0x00D#9 2#4))) fun t =>
        t.lr == 1#4 && t.hr == 2#4 && t.peek 0x00C#9 == 5#4 && t.peek 0x00D#9 == 3#4) = true := by decide

/-- R200. -/
theorem test_sbr :
    (ends (exec (.sbr 5#6) { base with pc := 0x123#13, sf := true }) fun t =>
        t.pc == 0x105#13 && t.sf) = true ∧
    (ends (exec (.sbr 5#6) { base with pc := 0x123#13 }) fun t =>
        t.pc == 0x124#13 && t.sf) = true := by decide

/-- R201. -/
theorem test_lbr :
    (ends (exec (.lbr 0x345#12) { base with pc := 0x1200#13, sf := true }) fun t =>
        t.pc == 0x1345#13) = true ∧
    (ends (exec (.lbr 0x345#12) { base with sf := true }) fun t => t.pc == 0x345#13) = true := by decide

/-- R202. -/
theorem test_slbrHigh :
    (ends (exec (.slbrHigh 0x777#12) { base with pc := 0x40#13, sf := true }) fun t =>
        t.pc == 0x1777#13 && t.sf) = true ∧
    (ends (exec (.slbrHigh 0x777#12) { base with pc := 0x40#13 }) fun t =>
        t.pc == 0x43#13 && t.sf) = true := by decide

/-- R202. -/
theorem test_slbrLow :
    (ends (exec (.slbrLow 0x010#12) { base with pc := 0x1F00#13, sf := true }) fun t =>
        t.pc == 0x10#13) = true := by decide

/-- R211. -/
theorem test_cmp :
    (ends (exec (.cmp 7#4 3#4) (base.poke 0x003#9 7#4)) fun t => t.cf && t.zf && !t.sf) = true ∧
    (ends (exec (.cmp 2#4 3#4) (base.poke 0x003#9 7#4)) fun t => !t.cf && !t.zf && t.sf) = true := by decide

/-- R212. -/
theorem test_cmpa :
    (ends (exec (.cmpa 0x20#8) ({ base with acc := 4#4 }.poke 0x020#9 8#4)) fun t =>
        t.cf && !t.zf && t.sf) = true := by decide

/-- R213. -/
theorem test_cmpam :
    (ends (exec .cmpam (hl 2#4 0#4 ({ base with acc := 0xF#4 }.poke 0x020#9 7#4))) fun t =>
        t.acc == 0xF#4 && !t.cf && !t.zf && t.sf) = true := by decide

/-- R214. -/
theorem test_cmph :
    (ends (exec (.cmph 3#4) { base with hr := 3#4 }) fun t => t.zf && t.sf) = true ∧
    (ends (exec (.cmph 2#4) { base with hr := 3#4 }) fun t => !t.zf && !t.sf) = true := by decide

/-- R215. -/
theorem test_cmpia :
    (ends (exec (.cmpia 9#4) { base with acc := 9#4 }) fun t => t.cf && t.zf && !t.sf) = true ∧
    (ends (exec (.cmpia 9#4) { base with acc := 0xA#4 }) fun t =>
        !t.cf && !t.zf && t.sf) = true := by decide

/-- R216. -/
theorem test_cmpl :
    (ends (exec (.cmpl 4#4) { base with lr := 5#4 }) fun t => !t.zf && !t.sf) = true ∧
    (ends (exec (.cmpl 0xF#4) { base with lr := 5#4 }) fun t => !t.zf && t.sf) = true := by decide

/-- R222. -/
theorem test_clm :
    (ends (exec (.clm 2#2) (hl 2#4 0#4 (base.poke 0x020#9 0xF#4))) fun t =>
        t.peek 0x020#9 == 0b1011#4 && t.sf) = true := by decide

/-- R223. -/
theorem test_clp :
    (ends (exec (.clp 9#4 3#2) (bank1 base)) fun t =>
        t.latch.p9 == 0#4 && t.sf && t.pc == 0x202#13) = true := by decide

/-- R224. -/
theorem test_clpl :
    (ends (exec .clpl { base with lr := 9#4 }) fun t =>
        t.latch.p6 == 0b1101#4 && t.lr == 9#4 && t.sf && t.pc == 0x201#13) = true := by decide

/-- R225. -/
theorem test_clr :
    (ends (exec (.clr 0xE#4 2#2) (base.poke 0x00E#9 0b0111#4)) fun t =>
        t.peek 0x00E#9 == 0b0011#4) = true := by decide

/-- R226. -/
theorem test_sem :
    (ends (exec (.sem 3#2) (hl 2#4 0#4 base)) fun t => t.peek 0x020#9 == 8#4 && t.sf) = true := by decide

/-- R227. -/
theorem test_sep :
    (ends (exec (.sep 9#4 3#2) base) fun t => t.latch.p9 == 8#4 && t.sf) = true := by decide

/-- R228. -/
theorem test_sepl :
    (ends (exec .sepl { base with latch := { base.latch with p4 := 0b0010#4 } }) fun t =>
        t.latch.p4 == 0b0011#4) = true := by decide

/-- R229. -/
theorem test_set :
    (ends (exec (.set 3#4 0#2) (bank1 base)) fun t =>
        t.peek 0x003#9 == 1#4 && t.peek 0x103#9 == 0#4) = true := by decide

/-- R230. -/
theorem test_tf :
    (ends (exec (.tf 0xE#4 2#2) (base.poke 0x00E#9 0b0100#4)) fun t => !t.sf) = true ∧
    (ends (exec (.tf 0xE#4 1#2) (base.poke 0x00E#9 0b0100#4)) fun t => t.sf) = true := by decide

/-- R231. -/
theorem test_tfa :
    (ends (exec (.tfa 3#2) { base with acc := 0b1000#4 }) fun t => !t.sf) = true ∧
    (ends (exec (.tfa 0#2) { base with acc := 0b1000#4 }) fun t => t.sf) = true := by decide

/-- R232. -/
theorem test_tfm :
    (ends (exec (.tfm 0#2) (hl 2#4 0#4 (base.poke 0x020#9 1#4))) fun t => !t.sf) = true := by decide

/-- R233, V8.23. -/
theorem test_tfp :
    (ends (exec (.tfp 9#4 3#2) base) fun t => t.sf && t.pc == 0x202#13) = true ∧
    (stops (exec (.tfp 12#4 0#2) base) .unassignedPort) = true := by decide

/-- R235. -/
theorem test_tt :
    (ends (exec (.tt 0xE#4 2#2) (base.poke 0x00E#9 0b0100#4)) fun t => t.sf) = true := by decide

/-- R236, V8.23. -/
theorem test_ttp :
    (ends (exec (.ttp 9#4 3#2) base) fun t => !t.sf) = true ∧
    (ends (exec (.ttp 9#4 3#2) (bank1 base)) fun t => t.sf) = true := by decide

/-- R240, V9.1. -/
theorem test_lcall :
    (ends (exec (.lcall 0x123#11) { base with pc := 0x300#13, sp := 0xC#4 }) fun t =>
        t.stack[12].pc == 0x302#13 && t.sp == 0xB#4 && t.pc == 0x123#13 && !t.sf) = true := by decide

/-- R241, V9.4, V9.5. -/
theorem test_scall :
    (ends (exec (.scall 3#4) { base with sp := 5#4 }) fun t =>
        t.stack[5].pc == 0x201#13 && t.sp == 4#4 && t.pc == 0x1E#13) = true ∧
    (ends (exec (.scall 0#4) { base with sp := 5#4 }) fun t => t.pc == 0x86#13) = true := by decide

/-- R242, V9.7, V9.8. -/
theorem test_ret :
    (ends (exec .ret { base with sp := 0xB#4, zf := true, stack := base.stack.set 12 ⟨true, false, true, 0x302#13⟩ }) fun t =>
        t.pc == 0x302#13 && t.sp == 0xC#4 && !t.cf && t.zf && !t.sf) = true ∧
    (stops (exec .ret { base with sp := 0xC#4 }) .stackLevelOutOfRange) = true := by decide

/-- R251, V10.3, V10.5. -/
theorem test_ina :
    (ends (exec (.ina 9#4) { base with latch := { base.latch with p9 := 0xA#4 } }) fun t =>
        t.acc == 0xA#4 && !t.zf && t.sf) = true ∧
    (stops (exec (.ina 12#4) base) .unassignedPort) = true := by decide

/-- R252. -/
theorem test_inm :
    (ends (exec (.inm 9#4) (hl 3#4 0#4 ({ base with zf := true }.poke 0x030#9 9#4))) fun t =>
        t.peek 0x030#9 == 0#4 && !t.sf && t.zf) = true := by decide

/-- R253, V10.9. -/
theorem test_out :
    (ends (exec (.out 5#4 14#4) { base with wks := true }) fun t => !t.wks && t.sf) = true ∧
    (ends (exec (.out 0#4 9#4) (bank1 base)) fun t => t.latch.p9 == 0#4) = true := by decide

/-- R254, S11, V15.1. -/
theorem test_outa :
    (ends (exec (.outa 28#5) { base with acc := 4#4 }) fun t => t.cmd.p28 == 4#4 && t.sf) = true ∧
    (ends (exec (.outa 16#5) { base with acc := 0b0110#4 }) fun t =>
        t.cmd.p16 == 6#4 && t.mode == .stop) = true := by decide

/-- R255. -/
theorem test_outm :
    (ends (exec (.outm 31#5) (hl 2#4 0#4 (base.poke 0x020#9 9#4))) fun t =>
        t.cmd.p31 == 9#4 && t.sf) = true := by decide

/-- R271. -/
theorem test_tfcfc :
    (ends (exec .tfcfc { base with cf := true, sf := true }) fun t => !t.cf && !t.sf) = true ∧
    (ends (exec .tfcfc base) fun t => !t.cf && t.sf) = true := by decide

/-- R272. -/
theorem test_ttcfs :
    (ends (exec .ttcfs { base with sf := true }) fun t => t.cf && !t.sf) = true ∧
    (ends (exec .ttcfs { base with cf := true }) fun t => t.cf && t.sf) = true := by decide

/-- R273. -/
theorem test_tzs :
    (ends (exec .tzs { base with zf := true }) fun t => t.sf) = true ∧
    (ends (exec .tzs { base with sf := true }) fun t => !t.sf) = true := by decide

/-- R274. -/
theorem test_cil :
    (ends (exec (.cil 0b011111#6) { base with il := 0b101000#6 }) fun t =>
        t.il == 0b001000#6 && t.sf && !t.ei) = true := by decide

/-- R275. -/
theorem test_dicil :
    (ends (exec (.dicil 0b111111#6) { base with il := 0b000100#6, ei := true }) fun t =>
        t.il == 0b000100#6 && !t.ei) = true := by decide

/-- R276. -/
theorem test_eicil :
    (ends (exec (.eicil 0b110111#6) { base with il := 0b001010#6 }) fun t =>
        t.il == 0b000010#6 && t.ei) = true := by decide

/-- R277. -/
theorem test_exae :
    (ends (exec .exae { base with acc := 4#4, mask := 9#4, zf := true }) fun t =>
        t.mask == 4#4 && t.acc == 9#4 && t.zf && t.sf) = true := by decide

/-- R278. -/
theorem test_rti :
    (ends (exec .rti { base with sp := 0xB#4, zf := true, sf := true, stack := base.stack.set 12 ⟨true, false, false, 0x234#13⟩ }) fun t =>
        t.pc == 0x234#13 && t.sp == 0xC#4 && t.cf && !t.zf && !t.sf && t.ei) = true := by decide

/-- R279. -/
theorem test_nop :
    (ends (exec .nop { base with cf := true, zf := true }) fun t =>
        t.pc == 0x201#13 && !t.sf && t.cf && t.zf) = true := by decide

/-- R287. -/
theorem test_ldatal :
    (ends (exec .ldatal { base with acc := 5#4, ta := 0xF0A#12 }) fun t =>
        t.acc == 0xA#4 && t.zf == false && t.sf) = true := by decide

/-- R288. -/
theorem test_ldatam :
    (ends (exec .ldatam { base with acc := 5#4, ta := 0xF0A#12 }) fun t =>
        t.acc == 0x0#4 && t.zf == true && t.sf) = true := by decide

/-- R289. -/
theorem test_ldatah :
    (ends (exec .ldatah { base with acc := 5#4, ta := 0xF0A#12 }) fun t =>
        t.acc == 0xF#4 && t.zf == false && t.sf) = true := by decide

/-- R290. -/
theorem test_ldatbl :
    (ends (exec .ldatbl { base with acc := 5#4, tb := 0x123#12 }) fun t =>
        t.acc == 0x3#4 && t.zf == false && t.sf) = true := by decide

/-- R291. -/
theorem test_ldatbm :
    (ends (exec .ldatbm { base with acc := 5#4, tb := 0x123#12 }) fun t =>
        t.acc == 0x2#4 && t.zf == false && t.sf) = true := by decide

/-- R292. -/
theorem test_ldatbh :
    (ends (exec .ldatbh { base with acc := 5#4, tb := 0x123#12 }) fun t =>
        t.acc == 0x1#4 && t.zf == false && t.sf) = true := by decide

/-- R293. -/
theorem test_ldadpl :
    (ends (exec .ldadpl { base with acc := 5#4, dp := 0x778#12 }) fun t =>
        t.acc == 0x8#4 && t.zf == false && t.sf) = true := by decide

/-- R294. -/
theorem test_ldadpm :
    (ends (exec .ldadpm { base with acc := 5#4, dp := 0x778#12 }) fun t =>
        t.acc == 0x7#4 && t.zf == false && t.sf) = true := by decide

/-- R295. -/
theorem test_ldadph :
    (ends (exec .ldadph { base with acc := 5#4, dp := 0x078#12 }) fun t =>
        t.acc == 0x0#4 && t.zf == true && t.sf) = true := by decide

/-- R296, V12.22. -/
theorem test_ldasp :
    (ends (exec .ldasp { base with sp := 0xC#4 }) fun t => t.acc == 0xC#4) = true ∧
    (ends (exec .ldatal (bank1 ({ base with ta := 0xF0A#12 }.poke 0x1F4#9 6#4))) fun t =>
        t.acc == 6#4) = true := by decide

/-- R297. -/
theorem test_statal :
    (ends (exec .statal { base with acc := 0xA#4, ta := 0x123#12 }) fun t =>
        t.ta == 0x12A#12 && t.sf) = true := by decide

/-- R298. -/
theorem test_statam :
    (ends (exec .statam { base with acc := 0x0#4, ta := 0x12A#12 }) fun t =>
        t.ta == 0x10A#12 && t.sf) = true := by decide

/-- R299. -/
theorem test_statah :
    (ends (exec .statah { base with acc := 0xF#4, ta := 0x10A#12 }) fun t =>
        t.ta == 0xF0A#12 && t.sf) = true := by decide

/-- R300. -/
theorem test_statbl :
    (ends (exec .statbl { base with acc := 0x3#4, tb := 0xFFF#12 }) fun t =>
        t.tb == 0xFF3#12 && t.sf) = true := by decide

/-- R301. -/
theorem test_statbm :
    (ends (exec .statbm { base with acc := 0x2#4, tb := 0xFFF#12 }) fun t =>
        t.tb == 0xF2F#12 && t.sf) = true := by decide

/-- R302. -/
theorem test_statbh :
    (ends (exec .statbh { base with acc := 0x1#4, tb := 0xFFF#12 }) fun t =>
        t.tb == 0x1FF#12 && t.sf) = true := by decide

/-- R303. -/
theorem test_stadpl :
    (ends (exec .stadpl { base with acc := 0x7#4, dp := 0x000#12 }) fun t =>
        t.dp == 0x007#12 && t.sf) = true := by decide

/-- R304. -/
theorem test_stadpm :
    (ends (exec .stadpm { base with acc := 0x7#4, dp := 0x007#12 }) fun t =>
        t.dp == 0x077#12 && t.sf) = true := by decide

/-- R305. -/
theorem test_stadph :
    (ends (exec .stadph { base with acc := 0x7#4, dp := 0x077#12 }) fun t =>
        t.dp == 0x777#12 && t.sf) = true := by decide

/-- R306, V12.21. -/
theorem test_stasp :
    (ends (exec .stasp { base with acc := 0xC#4, sp := 3#4 }) fun t => t.sp == 0xC#4) = true ∧
    (ends (exec .stasp (bank1 { base with acc := 0xC#4, sp := 3#4 })) fun t =>
        t.peek 0x1FF#9 == 0xC#4 && t.sp == 3#4) = true := by decide

/-! ### Interrupts and devices -/

/-- V13.1. -/
theorem test_interrupt_entry :
    (ends (step { base with
      pc := 0x119#13, cf := true, sp := 0xC#4, ei := true, mask := 4#4, il := 0b001000#6 }) fun t =>
        t.stack[12] == ⟨true, false, false, 0x119#13⟩ && t.sp == 0xB#4 && t.pc == 6#13 && t.sf && !t.ei && t.il == 0#6) =
      true := by decide

/-- V13.2, V13.3: INT0 needs no MASK bit and comes first; a masked source waits. -/
theorem test_interrupt_priority :
    ({ base with ei := true, mask := 5#4, il := 0b101001#6 } : State).pendingSource = some .int0 ∧
    ({ base with ei := true, mask := 7#4, il := 0b010000#6 } : State).pendingSource = none ∧
    ({ base with ei := true, mask := 1#4, il := 0b000011#6 } : State).pendingSource = some .tbi := by decide

/-- V14.2, V14.4, V14.7, V14.8. -/
theorem test_counters :
    (pulseA { base with cmd := { base.cmd with p28 := 8#4 }, ta := 0xFFF#12 }).il = 0b001000#6 ∧
    (changePins .p8 2#4 { base with
      cmd := { base.cmd with p29 := 4#4 }, tb := 0xF#12, pins := .all 0#4 }).tb = 0x10#12 ∧
    (clockHtc { base with cmd := { base.cmd with p31 := 5#4 }, htc := ⟨0xF0#8, 0xFF#8, false⟩ }).il = 0b010000#6 ∧
    (clockHtc { base with cmd := { base.cmd with p31 := 9#4 }, htc := ⟨0xF0#8, 0xFF#8, false⟩ }).htc =
      ⟨0xF0#8, 0xF0#8, true⟩ := by decide

/-- V14.10, V14.12, V15.6: the time base, INT0 by its edge, the release of IDLE by the internal signal. -/
theorem test_events :
    (tickTimeBase { base with cmd := { base.cmd with p25 := 7#4 } }).il = 0b000010#6 ∧
    (changePins .p8 0xB#4 base).il = 0b100000#6 ∧
    (releaseByTimer { base with mode := .idle, cmd := { base.cmd with p19 := 6#4 } }).mode = .slow ∧
    (releaseByTimer { base with mode := .idle, cmd := { base.cmd with p19 := 6#4 } }).wks = true := by decide

/-- R234 with LR = Ch: port 7, bit 0; a pin without a bit of its own is any value, the pin itself is read. -/
theorem test_tfpl :
    ({ base with lr := 0xC#4 } : State).lrPort = 7#5 ∧ ({ base with lr := 0xC#4 } : State).lrBit = 0#2 ∧
    ∀ f : Nibble, testBit (merge (pinMask base.opts .p7) 1#4 f) 0#2 = true := by decide

/-! ### The hypotheses of the statements are met -/

/-- HL or a direct address at the ends of the two RAM ranges: 0F3h in bank 0, 100h and 1FFh in bank 1. -/
theorem witness_ram_ends :
    IsRam (hl 0xF#4 3#4 base).eaHl ∧ IsRam (hl 0#4 0#4 (bank1 base)).eaHl ∧
    IsRam (hl 0xF#4 0xF#4 (bank1 base)).eaHl ∧ IsRam (base.eaDir 0xF3#8) ∧ IsRam ((bank1 base).eaDir 0x00#8) ∧
    IsRam (base.eaDir (0x3C#6 ++ 0#2)) ∧ IsRam ((bank1 base).eaDir (0x3F#6 ++ 0#2)) := by
  unfold IsRam; decide

theorem witness_TableLookup : Memory.read (romAt 0x1FFF#13 0x5A#8 base).rom (0x1000 + 0xFFF) = 0x5A#8 := by decide

theorem witness_ZeroPageArithmetic : (base.poke 0x00F#9 9#4).peek (0#5 ++ 0xF#4) = 9#4 := by decide

theorem witness_ZeroPageBits : (bank1 base).peek (0#5 ++ 0x0#4) = 0#4 := by decide

theorem witness_LoadsFromRam :
    IsRam (hl 0xF#4 3#4 ((apart base).poke 0x0F3#9 7#4)).eaHl ∧
    (hl 0xF#4 3#4 ((apart base).poke 0x0F3#9 7#4)).peek 0x0F3#9 = 7#4 ∧ (0xF7#8 ∉ specialBytes) ∧
    IsRam ((bank1 base).eaDir 0#8) ∧ (bank1 base).peek ((bank1 base).eaDir 0#8) = 0#4 ∧
    IsRam (base.eaDir (0x3C#6 ++ 0#2)) := by
  unfold IsRam; decide

theorem witness_AccumulatorArithmetic :
    IsRam (hl 0xF#4 3#4 base).eaHl ∧ (hl 0xF#4 3#4 (apart base)).peek (hl 0xF#4 3#4 base).eaHl = 0#4 := by
  unfold IsRam; decide

theorem witness_ReadersOfRam :
    (IsRam (hl 0#4 0#4 (bank1 base)).eaHl ∧
      (hl 0#4 0#4 (bank1 base)).peek (hl 0#4 0#4 (bank1 base)).eaHl = 0#4) ∧
    IsRam (base.eaDir 0xF3#8) ∧ (apart base).peek (base.eaDir 0xF3#8) = 0#4 := by
  unfold IsRam; decide

theorem witness_StoresToRam : IsRam (hl 0xF#4 3#4 base).eaHl ∧ IsRam ((bank1 base).eaDir 0xFF#8) := by
  unfold IsRam; decide

/-- What `StoredOnly` says of an address is not empty in either setting: 0F3h with the parameter given, 0BFh
and 0F3h's neighbours in bank 1 without it. -/
theorem witness_Vouched :
    Vouched (apart base) 0x0F3#9 ∧ Vouched base 0x0BF#9 ∧ Vouched base 0x100#9 ∧ ¬ Vouched base 0x0C0#9 ∧
    ¬ Vouched base 0x0F3#9 := by
  unfold Vouched; decide

theorem witness_ReadModifyWrites :
    IsRam (hl 0xF#4 0xF#4 (bank1 base)).eaHl ∧
      (hl 0xF#4 0xF#4 (bank1 base)).peek (hl 0xF#4 0xF#4 (bank1 base)).eaHl = 0#4 := by
  unfold IsRam; decide

theorem witness_ExchangesWithRam :
    IsRam (hl 0xF#4 3#4 base).eaHl ∧ IsRam (base.eaDir 0xF3#8) ∧ IsRam ((bank1 base).eaDir (0x3F#6 ++ 0#2)) := by
  unfold IsRam; decide

theorem witness_SpecialAreaFaults :
    InSpecialArea (hl 0xF#4 4#4 base).eaHl ∧ InSpecialArea (hl 0xF#4 0xF#4 base).eaHl ∧
    Instr.ldam ∈ [Instr.ldam, .stam] ∧ (lowPort (0#4).toNat ∧ lowPort (11#4).toNat ∧ lowPort (14#4).toNat) ∧
    InSpecialArea (base.eaDir 0xF4#8) ∧ InSpecialArea (base.eaDir 0xF7#8) ∧ InSpecialArea (base.eaDir 0xFF#8) ∧
    InSpecialArea (base.eaDir (0x3D#6 ++ 0#2)) ∧ InSpecialArea (base.eaDir (0x3F#6 ++ 0#2)) := by
  unfold InSpecialArea lowPort; decide

theorem witness_SpecialRegisterLoads : base.latch.p9.getLsbD 3 = false := by decide

theorem witness_SpecialRegisterStores : ({ base with acc := 0xF#4 } : State).latch.p9.getLsbD 3 = false := by decide

theorem witness_SpecialRegistersInBankOne :
    (bank1 base).latch.p9.getLsbD 3 = true ∧ (bank1 base).peek (1#1 ++ 0xF4#8) = 0#4 := by decide

theorem witness_Calls :
    ({ base with sp := 12#4 } : State).sp.toNat < 13 ∧ ({ base with sp := 0#4 } : State).sp.toNat < 13 := by decide

theorem witness_Returns :
    (base.stack[((15#4).toNat + 1) % 16]?).isSome = true ∧ (base.stack[((11#4).toNat + 1) % 16]?).isSome = true := by
  decide

theorem witness_ReturnAfterCall :
    isCall (.lcall 0x123#11) = true ∧ ∃ t, exec (.lcall 0x123#11) { base with sp := 12#4 } = .next t :=
  ⟨rfl, _, rfl⟩

theorem witness_StackRangeFaults :
    isCall (.scall 0#4) = true ∧ 13 ≤ ({ base with sp := 13#4 } : State).sp.toNat ∧
    (∀ v ∈ [12#4, 13#4, 14#4], ({ base with sp := v } : State).sp ∈ [12#4, 13#4, 14#4]) ∧
    ({ base with sp := 15#4, ei := true, il := 0b100000#6 } : State).schedule = [] ∧
    Mode.normal ∈ [Mode.normal, .slow] ∧
    ∃ r ∈ sourceTable, requested { base with sp := 15#4, ei := true, il := 0b100000#6 } r = true := by decide

theorem witness_ThirteenNestedCalls :
    ({ base with sp := 12#4 } : State).sp = 12#4 ∧
    (∀ i ∈ List.replicate 13 (Instr.scall 1#4), isCall i = true) ∧ (List.replicate 13 (Instr.scall 1#4)).length ≤ 13 ∧
    (List.replicate 14 (Instr.scall 1#4)).length = 14 := by decide

theorem witness_InputsReadThePort :
    lowPort (0#4).toNat ∧ lowPort (11#4).toNat ∧ lowPort (14#4).toNat ∧ IsRam (hl 0xF#4 3#4 base).eaHl := by
  unfold lowPort IsRam; decide

theorem witness_OutputsWriteThePort :
    lowPort (0#5).toNat ∧ lowPort (11#5).toNat ∧ lowPort (14#5).toNat ∧ IsRam (hl 0xF#4 3#4 base).eaHl ∧
    ends (exec (.outa 31#5) { base with acc := 9#4 }) (fun t => t.cmd.p31 == 9#4) = true := by
  unfold lowPort IsRam; decide

theorem witness_PortBitInstructions : lowPort (1#4).toNat ∧ lowPort (11#4).toNat ∧ lowPort (14#4).toNat := by
  unfold lowPort; decide

theorem witness_ModeCommands :
    (4#4).getLsbD 2 = true ∧ 8#4 ∈ [0x0#4, 0x8#4] ∧ ((4#4).toNat / 4 = 1 ∧ (7#4).toNat / 4 = 1) ∧
    (3#4).toNat / 4 = 0 ∧ ({ base with mode := .slow } : State).mode = .slow ∧
    somTop base.opts 4#4 = true ∧ base.mode = .normal ∧ base.cmd.p25.toNat / 4 ≠ 2 ∧
    somTop base.opts 3#4 = false ∧ base.mode ≠ (if somTop base.opts 3#4 then .normal else .slow) := by decide

theorem witness_ModeCommands_rates : ¬ slowForbidden base.cmd := by
  unfold slowForbidden; decide

theorem witness_DeviceCommands :
    base.opts.wdtEnable = true ∧ ({ base.opts with wdtEnable := false } : Options).wdtEnable = false ∧
    (7#4).toNat / 4 ≠ 2 ∧ (12#4).toNat / 4 ≠ 2 ∧
    ¬ (base.mode = .slow ∧ 12#4 ∈ [0x4#4, 0x5#4, 0x6#4, 0xC#4]) ∧ ¬ (base.mode = .slow ∧ (8#4).toNat % 4 = 0) ∧
    ¬ (base.mode = .slow ∧ 2 ≤ (6#4).toNat % 4) := by decide

theorem witness_PortFaults :
    12#4 ∈ [12#4, 13#4, 15#4] ∧ 30#5 ∈ [12#5, 13#5, 15#5, 17#5, 18#5, 20#5, 23#5, 24#5, 26#5, 30#5] ∧
    ((3#4).getLsbD 2 = false ∧ (3#4).toNat % 4 ≠ 0) ∧ 2 ≤ (8#4).toNat / 4 ∧ ((4#4).toNat / 4 = 1 ∧ base.mode ≠ .slow) ∧
    (8#4).toNat / 4 = 2 ∧ (11#4).toNat / 4 = 2 ∧ ({ base with mode := .slow } : State).mode = .slow ∧
    12#4 ∈ [0x4#4, 0x5#4, 0x6#4, 0xC#4] ∧ (0#4).toNat % 4 = 0 ∧ 2 ≤ (2#4).toNat % 4 := by decide

theorem witness_PortFaults_rates :
    IsRam (hl 0xF#4 3#4 base).eaHl ∧ somTop base.opts 4#4 = true ∧ base.mode = .normal ∧
    slowForbidden { base.cmd with p28 := 4#4 } := by
  unfold IsRam slowForbidden; decide

theorem witness_DecodeOfEncode :
    (Instr.lda 0xF7#8).wf = true ∧ (Instr.sta 0xF3#8).wf = true ∧ (Instr.slbrHigh 0xFFF#12).wf = true := by decide

theorem witness_StepRunsTheDecodedInstruction :
    (program 0x200#13 [0x55#8, 0xC7#8, 0x77#8] base).aboutToRun ∧ (Instr.slbrHigh 0x777#12).wf = true ∧
    (Instr.slbrHigh 0x777#12).encode =
      [(program 0x200#13 [0x55#8, 0xC7#8, 0x77#8] base).romByte 0x200#13,
       (program 0x200#13 [0x55#8, 0xC7#8, 0x77#8] base).romByte 0x201#13,
       (program 0x200#13 [0x55#8, 0xC7#8, 0x77#8] base).romByte 0x202#13] ∧
    (program 0x200#13 [0x54#8] base).aboutToRun ∧
    (match decode ((program 0x200#13 [0x54#8] base).romByte 0x200#13) 0#8 0#8 with
      | .ok _ => false
      | .error _ => true) = true := by
  unfold State.aboutToRun; decide

theorem witness_PcAdvancesByTheLength :
    (∃ t, exec .nop base = .next t) ∧ (∃ t, exec (.slbrLow 0#12) base = .next t) ∧ base.sf = false :=
  ⟨⟨_, rfl⟩, ⟨_, rfl⟩, rfl⟩

theorem witness_InterruptEntry :
    sourceTable = [(5, 0x0002#13, none)] ++ (4, 0x0004#13, some 3) ::
      [(3, 0x0006#13, some 2), (2, 0x0008#13, some 1), (1, 0x000A#13, some 0), (0, 0x000C#13, some 0)] ∧
    requested { base with ei := true, mask := 8#4, il := 0b011111#6, sp := 12#4 } (5, 0x0002#13, none) = false ∧
    requested { base with ei := true, mask := 8#4, il := 0b011111#6, sp := 12#4 } (4, 0x0004#13, some 3) = true ∧
    (12#4).toNat < 13 ∧ base.schedule = [] ∧ base.mode ∈ [Mode.normal, .slow] := by decide

theorem witness_RtiAfterInterrupt :
    ({ base with ei := true, il := 0b100000#6 } : State).pendingSource ≠ none ∧
    base.schedule = [] ∧ base.mode ∈ [Mode.normal, .slow] ∧
    ends (step { base with ei := true, il := 0b100000#6 }) (fun t => t.sp == 15#4) = true := by decide

theorem witness_PinEdges :
    base.mode ∈ [Mode.normal, .slow] ∧ ({ base with mode := .stop } : State).mode ∈ [Mode.idle, .stop] ∧
    ({ base with schedule := [.pins .p8 0xB#4] } : State).schedule = [.pins .p8 0xB#4] ∧
    ({ base with schedule := [.pins .p7 0xE#4] } : State).schedule = [.pins .p7 0xE#4] ∧
    PinPort.p4 ∉ [PinPort.p7, .p8] := by decide

/-- A falling edge of P8.2 is a release with the options of reset; an edge of P3.0 never is one, nor is one of
P4.0 as the sound output. -/
theorem witness_PinEdges_releases :
    Releases base .p8 0xB#4 ∧ ¬ Releases base .p3 0xE#4 ∧
    ¬ Releases { base with opts := { base.opts with p40 := .sound } } .p4 0xE#4 := by
  refine ⟨⟨2, .falling, by decide, by decide⟩, fun ⟨_, _, h, _⟩ => absurd h (by simp [releaseEdges]), ?_⟩
  rintro ⟨b, e, h, h'⟩
  have hb : b = 0 := by
    by_contra hb
    by_cases hc : b < 4
    · have : b = 1 ∨ b = 2 ∨ b = 3 := by omega
      rcases this with rfl | rfl | rfl <;> cases e <;> exact absurd h' (by decide)
    · cases e <;> simp [transition, BitVec.getLsbD_of_ge _ _ (show 4 ≤ b by omega)] at h'
  subst hb
  simp [releaseEdges] at h

theorem witness_TimersAndTimeBase :
    ({ base with schedule := [.timerAPulse] } : State).schedule = [.timerAPulse] ∧
    ({ base with schedule := [.timerBPulse] } : State).schedule = [.timerBPulse] ∧
    ({ base with schedule := [.timeBaseTick] } : State).schedule = [.timeBaseTick] := by decide

theorem witness_HighSpeedCounter :
    ({ base with schedule := [.htcClock] } : State).schedule = [.htcClock] := by decide

theorem witness_StopIdleAndWakeUp :
    ({ base with mode := .stop } : State).mode ∈ [Mode.idle, .stop] ∧ base.schedule = [] ∧
    ({ base with mode := .idle, schedule := [.wakePin] } : State).schedule = [.wakePin] ∧
    wakeEnabled base.opts = true ∧ wakeEnabled (noWake base.opts) = false ∧
    ({ base with mode := .idle, schedule := [.wakeTimer] } : State).schedule = [.wakeTimer] := by decide

/-- P4.0 as the sound output is no wake-up pin, and a pin of P0 has one edge (R5). -/
theorem test_wake_options :
    releaseMask { base.opts with p40 := .sound } .falling .p4 = 0xE#4 ∧
    releaseMask { base.opts with p0Wake := ⟨some .rising, none, some .falling, none⟩ } .rising .p0 = 1#4 ∧
    releaseMask { base.opts with p0Wake := ⟨some .rising, none, some .falling, none⟩ } .falling .p0 = 4#4 ∧
    releaseMask { base.opts with p5Wake := some .either } .rising .p5 = 0xF#4 := by decide

/-- `P9_RESET` given: a reset leaves it in port 9 (R383). -/
theorem test_reset_port_9 :
    (resetChip { base with opts := { base.opts with p9Reset := some 8#4 } }).bank = true := by decide

/-- LDIA #0000B, OUTA P21 clears the counter; CWC, bit 3, returns to 1 (R59). -/
theorem test_outa_p21_cwc :
    ends (exec (.outa 21#5) { base with acc := 1#4, wdtCount := 2#4 })
      (fun t => t.cmd.p21 == 9#4 && t.wdtCount == 0#4) = true := by decide

/-- In SLOW mode IPSA = 00 faults whatever TMSA is; entering SLOW asks only of units that run (R379). -/
theorem test_reserved_rates :
    stops (exec (.outa 28#5) { base with acc := 0#4, mode := .slow }) .reservedCommand = true ∧
    stops (exec (.outa 31#5) { base with acc := 2#4, mode := .slow }) .reservedCommand = true ∧
    ends (exec (.outa 22#5) { base with acc := 4#4 }) (fun t => t.mode == .slow) = true ∧
    stops (exec (.outa 22#5) { base with acc := 4#4, cmd := { base.cmd with p28 := 4#4 } })
      .reservedCommand = true := by decide

/-- LDIA #1010B, STA 24H lights SEG4 at COM3 and COM1; SEG30 is lit only as a segment pin; LDC = 01 outputs the
data and lights nothing, and outputs nothing after STOP (R368, R374, R394). -/
theorem test_lcd :
    let on : State := { (base.poke 0x024#9 0xA#4).poke 0x03E#9 1#4 with
      lcdPower := true, cmd := { base.cmd with p27 := 0xC#4 } }
    (on.lcdDot 4 3 && on.lcdDot 4 1 && !on.lcdDot 4 2 && !on.lcdDot 30 0) = true ∧
    ({ on with opts := { on.opts with p3Segments := true } } : State).lcdDot 30 0 = true ∧
    ({ on with cmd := { on.cmd with p27 := 4#4 } } : State).lcdDot 4 3 = false ∧
    ({ on with cmd := { on.cmd with p27 := 4#4 } } : State).segmentData 4 3 = true ∧
    ends (exec (.outa 16#5) { on with acc := 4#4, cmd := { on.cmd with p27 := 4#4 } })
      (fun t => !(releaseByPin t).segmentData 4 3 && (releaseByPin t).mode == .normal) = true := by decide

/-- 8 / fc at 4 MHz and LXIN / 2^3 at 32768 Hz (R63, R386). -/
theorem test_clocks :
    base.systemClock = some 4000000 ∧ ({ base with mode := .slow } : State).systemClock = some 32768 ∧
    (timerARate false false 8#4).hertz base.opts = some (32768, 8) := by decide

theorem witness_WatchDog :
    ({ base with schedule := [.wdtClock] } : State).schedule = [.wdtClock] ∧
    ({ base with schedule := [.wdtTimeUp] } : State).schedule = [.wdtTimeUp] := by decide

theorem witness_LcdAndSound :
    ends (step ({ base with acc := 4#4, lcdPower := true }.withFetchWord 16 0x6F10)) (fun t => !t.lcdPower) = true ∧
    ends (step ({ base with acc := 0xC#4 }.withFetchWord 16 0x6F1B)) (fun t => t.lcdPower) = true := by
  decide

theorem witness_DevicesLeaveTheCpuAlone :
    ({ base with schedule := [.oscillator true] } : State).schedule = [.oscillator true] ∧
    Event.oscillator true ∉ [Event.cpu, .resetPin, .wdtClock, .wdtTimeUp] ∧
    Event.int0 ∉ [Event.cpu, .resetPin, .wdtClock, .wdtTimeUp] ∧
    Event.pins .p0 0#4 ∉ [Event.cpu, .resetPin, .wdtClock, .wdtTimeUp] := by decide

theorem witness_ResetEvent :
    ({ base with schedule := [.resetPin] } : State).schedule = [.resetPin] ∧
    ({ base.opts with p9Reset := some 8#4 } : Options).p9Reset = some 8#4 := by decide

theorem witness_FlagColumnsHold :
    base.opts.bulletCWritesCF = false ∧ ends (exec .adcam base) (fun t => !t.cf) = true := by decide

theorem witness_InterruptStateWriters :
    ends (exec (.dicil 0#6) { base with ei := true, il := 5#6 }) (fun t => !t.ei && t.il == 0#6) = true ∧
    ends (exec .exae { base with acc := 1#4 }) (fun t => t.mask == 1#4) = true := by decide

theorem witness_SpecialRegisterWriters :
    Instr.statal.wf = true ∧ ends (exec .statal { base with acc := 1#4 }) (fun t => t.ta == 1#12) = true ∧
    ends (exec .ldaxi base) (fun t => t.dp == 1#12) = true ∧ (apart base).opts.stackMap = some [] ∧
    ends (exec (.scall 1#4) { base with sp := 5#4 }) (fun t => t.sp == 4#4 && t.stack[5].pc == 0x201#13) = true := by
  decide

theorem witness_ModeTransitions :
    ends (step ({ base with acc := 4#4 }.withFetchWord 16 0x6F10)) (fun t => t.mode == .stop) = true ∧
    ends (step { base with mode := .stop, schedule := [.resetPin] }) (fun t => t.mode == .normal) = true := by decide

theorem witness_RomIsNeverWritten : ∃ t, step base = .next t := ⟨_, rfl⟩

theorem witness_EndedRunsStay :
    ({ program 0x200#13 [0x00#8] base with sf := true } : State).runEnded = true ∧
    ({ base with mode := .stop, opts := noWake base.opts } : State).runEnded = true ∧
    base.schedule = [] := by decide

theorem witness_StepKeepsTheInvariant : State.reset.Inv ∧ ∃ t, step State.reset = .next t :=
  ⟨⟨rfl, by decide, rfl, rfl⟩, _, rfl⟩

end Sys2Proof.Tests
end

section
/-! What lies outside the CPU, and that the instructions leave it alone: of all instructions only the outputs and
the port bit instructions reach it, each by one `portOut`. -/

namespace Sys2Proof.Machine

open Sys2Proof.Config

/-- The fields of the state that an instruction can change through a port only, or not at all. -/
structure Periphery where
  latch : Latches
  cmd : Commands
  htc : Htc
  mode : Mode
  wks : Bool
  lfs : Bool
  lcdPower : Bool
  wdtCount : Nibble
  pins : Pins
  schedule : List Event
  opts : Options
  rom : List Host.Cell

/-- The part of a state outside the CPU. -/
def State.periphery (s : State) : Periphery :=
  ⟨s.latch, s.cmd, s.htc, s.mode, s.wks, s.lfs, s.lcdPower, s.wdtCount, s.pins, s.schedule, s.opts, s.rom⟩

/-- The one way an instruction reaches the periphery: a write to a port (R88). -/
def OutputBetween (s t : State) : Prop :=
  ∃ p v u, portOut p v s = .ok u ∧ t.periphery = u.periphery

variable {s t : State}

/-! ### Updates of the CPU -/

section
variable (s : State)

@[simp] theorem State.setAcc_periphery (v : Nibble) : (s.setAcc v).periphery = s.periphery := rfl
@[simp] theorem State.setHr_periphery (v : Nibble) : (s.setHr v).periphery = s.periphery := rfl
@[simp] theorem State.setLr_periphery (v : Nibble) : (s.setLr v).periphery = s.periphery := rfl
@[simp] theorem State.setPc_periphery (v : RomAddr) : (s.setPc v).periphery = s.periphery := rfl
@[simp] theorem State.setCf_periphery (v : Bool) : (s.setCf v).periphery = s.periphery := rfl
@[simp] theorem State.setZf_periphery (v : Bool) : (s.setZf v).periphery = s.periphery := rfl
@[simp] theorem State.setSf_periphery (v : Bool) : (s.setSf v).periphery = s.periphery := rfl
@[simp] theorem State.setSp_periphery (v : Nibble) : (s.setSp v).periphery = s.periphery := rfl
@[simp] theorem State.setDp_periphery (v : Word12) : (s.setDp v).periphery = s.periphery := rfl
@[simp] theorem State.setTa_periphery (v : Word12) : (s.setTa v).periphery = s.periphery := rfl
@[simp] theorem State.setTb_periphery (v : Word12) : (s.setTb v).periphery = s.periphery := rfl
@[simp] theorem State.setStack_periphery (v : Vector StackEntry 13) : (s.setStack v).periphery = s.periphery := rfl
@[simp] theorem State.setEi_periphery (v : Bool) : (s.setEi v).periphery = s.periphery := rfl
@[simp] theorem State.setMask_periphery (v : Nibble) : (s.setMask v).periphery = s.periphery := rfl
@[simp] theorem State.setIl_periphery (v : BitVec 6) : (s.setIl v).periphery = s.periphery := rfl
@[simp] theorem State.setRam_periphery (v : List NibbleCell) : (s.setRam v).periphery = s.periphery := rfl
@[simp] theorem State.setDraws_periphery (v : Nat) : (s.setDraws v).periphery = s.periphery := rfl
@[simp] theorem State.flagsAdd_periphery (r : Alu) : (s.flagsAdd r).periphery = s.periphery := rfl
@[simp] theorem State.flagsSub_periphery (r : Alu) : (s.flagsSub r).periphery = s.periphery := rfl
@[simp] theorem State.flagsAddCarry_periphery (r : Alu) : (s.flagsAddCarry r).periphery = s.periphery := rfl
@[simp] theorem State.flagsSubCarry_periphery (r : Alu) : (s.flagsSubCarry r).periphery = s.periphery := rfl
@[simp] theorem State.flagsCompare_periphery (r : Alu) : (s.flagsCompare r).periphery = s.periphery := rfl
@[simp] theorem State.flagsLoad_periphery (v : Nibble) : (s.flagsLoad v).periphery = s.periphery := rfl
@[simp] theorem State.flagsLogic_periphery (v : Nibble) : (s.flagsLogic v).periphery = s.periphery := rfl
@[simp] theorem State.flagsSet_periphery : s.flagsSet.periphery = s.periphery := rfl
@[simp] theorem State.drawn_periphery : s.drawn.periphery = s.periphery := rfl
@[simp] theorem State.advance_periphery (len : Nat) : (s.advance len).periphery = s.periphery := rfl
@[simp] theorem logicFlags_periphery (r : Alu) : (logicFlags s r).periphery = s.periphery := rfl
@[simp] theorem setFlags_periphery (r : Alu) : (setFlags s r).periphery = s.periphery := rfl
@[simp] theorem loadAcc_periphery (len : Nat) (v : Nibble) : (loadAcc len v s).periphery = s.periphery := rfl
@[simp] theorem logicAcc_periphery (len : Nat) (v : Nibble) : (logicAcc len v s).periphery = s.periphery := rfl
@[simp] theorem compareEq_periphery (len : Nat) (a b : Nibble) :
    (compareEq len a b s).periphery = s.periphery := rfl

@[simp] theorem State.poke_periphery (a : DataAddr) (v : Nibble) : (s.poke a v).periphery = s.periphery := by
  rw [State.poke_eq]; rfl

@[simp] theorem State.bulletCarry_periphery (r : Alu) : (s.bulletCarry r).periphery = s.periphery := by
  unfold State.bulletCarry; split <;> rfl

theorem State.putSpecial_periphery (r : Special) (v : Nibble) :
    (s.putSpecial r v).periphery = s.periphery := by
  cases r <;> rfl

end

/-! ### Shared operations -/

theorem writeDirect_periphery {x : Byte} {v : Nibble} (h : writeDirect x v s = .ok t) :
    t.periphery = s.periphery := by
  obtain ⟨-, rfl⟩ | ⟨-, r, -, rfl⟩ := writeDirect_eq_ok h
  · exact s.poke_periphery _ _
  · exact s.putSpecial_periphery r v

theorem takeInterrupt_periphery {n : Source} (h : takeInterrupt n s = .next t) :
    t.periphery = s.periphery := by
  obtain ⟨-, rfl⟩ := takeInterrupt_eq_next h
  rfl

/-! ### Shapes of instructions -/

theorem next_periphery {u : State} (h : (.next u : Res) = .next t) (hu : u.periphery = s.periphery) :
    t.periphery = s.periphery :=
  Host.Outcome.next.inj h ▸ hu

theorem withHl_periphery {f : Nibble → State} (h : withHl s (fun m => .next (f m)) = .next t)
    (hf : ∀ m, (f m).periphery = s.periphery) : t.periphery = s.periphery :=
  next_periphery (withHl_eq_next h).2 (hf _)

theorem onOk_readData_periphery {a : DataAddr} {f : Nibble → State}
    (h : onOk (readData a s) (fun m => .next (f m)) = .next t)
    (hf : ∀ m, (f m).periphery = s.periphery) : t.periphery = s.periphery :=
  (onOk_readData_eq_next h).2 ▸ hf _

theorem onOk_writeData_periphery {a : DataAddr} {v : Nibble} {f : State → State}
    (h : onOk (writeData a v s) (fun u => .next (f u)) = .next t)
    (hf : ∀ u, (f u).periphery = u.periphery) : t.periphery = s.periphery :=
  (onOk_writeData_eq_next h).2 ▸ (hf _).trans (s.poke_periphery a v)

theorem loadDirect_periphery {x : Byte} (h : loadDirect x s = .next t) : t.periphery = s.periphery := by
  obtain ⟨v, -, rfl⟩ := loadDirect_eq_next h
  simp

theorem storeDirect_periphery {x : Byte} (h : storeDirect x s = .next t) : t.periphery = s.periphery := by
  obtain ⟨u, hu, rfl⟩ := storeDirect_eq_next h
  exact (writeDirect_periphery hu :)

theorem updateData_periphery {a : DataAddr} {len : Nat} {f : Nibble → Alu} {g : State → Alu → State}
    (h : updateData a len f g s = .next t) (hg : ∀ u r, (g u r).periphery = u.periphery) :
    t.periphery = s.periphery := by
  obtain ⟨-, rfl⟩ := updateData_eq_next h
  exact (hg _ _).trans (s.poke_periphery a _)

theorem storeThenStep_periphery {v : Nibble} {r : Alu} {g : State → Alu → State}
    (h : storeThenStep v r g s = .next t) (hg : ∀ u r, (g u r).periphery = u.periphery) :
    t.periphery = s.periphery := by
  obtain ⟨-, rfl⟩ := storeThenStep_eq_next h
  exact (hg _ _).trans (s.poke_periphery _ v)

theorem exchangeData_periphery {a : DataAddr} {len : Nat} (h : exchangeData a len s = .next t) :
    t.periphery = s.periphery := by
  obtain ⟨-, rfl⟩ := exchangeData_eq_next h
  exact s.poke_periphery a s.acc

theorem testPort_periphery {p : BitVec 5} {len : Nat} {f : Nibble → Bool}
    (h : testPort p len f s = .next t) : t.periphery = s.periphery := by
  obtain ⟨v, -, rfl⟩ := testPort_eq_next h
  simp

theorem branchTo_periphery {target : RomAddr} {len : Nat} (h : branchTo target len s = .next t) :
    t.periphery = s.periphery := by
  rw [branchTo_eq_next h]; simp

theorem callTo_periphery {target : RomAddr} {len : Nat} (h : callTo target len s = .next t) :
    t.periphery = s.periphery := by
  obtain ⟨-, rfl⟩ := callTo_eq_next h
  simp

theorem updatePort_output {p : BitVec 5} {len : Nat} {f : Nibble → Nibble}
    (h : updatePort p len f s = .next t) : OutputBetween s t := by
  obtain ⟨u, hu, rfl⟩ := updatePort_eq_next h
  exact ⟨p, _, u, hu, rfl⟩

theorem outputTo_output {p : BitVec 5} {v : Nibble} (h : outputTo p v s = .next t) : OutputBetween s t := by
  obtain ⟨u, hu, rfl⟩ := outputTo_eq_next h
  exact ⟨p, v, u, hu, rfl⟩

/-! ### All instructions -/

/-- An instruction keeps the periphery or writes one port. -/
theorem exec_periphery {i : Instr} (h : exec i s = .next t) :
    t.periphery = s.periphery ∨ OutputBetween s t := by
  cases i
  case clp p b => exact .inr (updatePort_output (f := fun v => clearBit v b) h)
  case clpl => exact .inr (updatePort_output (f := fun v => clearBit v s.lrBit) h)
  case sep p b => exact .inr (updatePort_output (f := fun v => setBit v b) h)
  case sepl => exact .inr (updatePort_output (f := fun v => setBit v s.lrBit) h)
  case out | outa => exact .inr (outputTo_output h)
  case outm => exact .inr (outputTo_output (withHl_eq_next h).2)
  all_goals left
  case ldax | ldaxi | ldh | ldia | ldl | tha | tla | rlca | rrca | adda | addh | addl | deca | decl | inca | incl |
      suba | anda | ora | exah | exal | cmph | cmpia | cmpl | tfa | tfcfc | ttcfs | tzs | cil | dicil | eicil |
      exae | nop =>
    exact next_periphery h (by simp)
  case ldam | adcam | addam | sbcam | andam | oram | xoram | cmpam | tfm =>
    exact withHl_periphery h fun _ => by simp
  case cmp | cmpa | tf | tt => exact onOk_readData_periphery h fun _ => by simp
  case stam | std => exact onOk_writeData_periphery h fun _ => by simp
  case stamd | stami | stdmi => exact storeThenStep_periphery h fun _ _ => by simp
  case add | addm | decm | incm | subm | andm | orm | clm | clr | sem | set =>
    exact updateData_periphery h fun _ _ => by simp
  case exa | exam => exact exchangeData_periphery h
  case lda | ldatal | ldatam | ldatah | ldatbl | ldatbm | ldatbh | ldadpl | ldadpm | ldadph | ldasp =>
    exact loadDirect_periphery h
  case sta | statal | statam | statah | statbl | statbm | statbh | stadpl | stadpm | stadph | stasp =>
    exact storeDirect_periphery h
  case sbr | lbr | slbrHigh | slbrLow => exact branchTo_periphery h
  case lcall | scall => exact callTo_periphery h
  case tfp p b => exact testPort_periphery (f := fun v => !testBit v b) h
  case tfpl => exact testPort_periphery (f := fun v => !testBit v s.lrBit) h
  case ttp p b => exact testPort_periphery (f := fun v => testBit v b) h
  case ldhl x =>
    obtain ⟨-, -, rfl⟩ := exec_ldhl_next x h
    simp
  case exhl x =>
    obtain ⟨-, -, rfl⟩ := exec_exhl_next x h
    simp
  case ret =>
    obtain ⟨-, rfl⟩ := exec_ret_next h
    simp
  case rti =>
    obtain ⟨-, rfl⟩ := exec_rti_next h
    simp
  case ina p =>
    obtain ⟨v, -, rfl⟩ := exec_ina_next p h
    simp
  case inm p =>
    obtain ⟨v, -, -, rfl⟩ := exec_inm_next p h
    simp

/-- The CPU's turn keeps the periphery or writes one port. -/
theorem cpuTurn_periphery (h : cpuTurn s = .next t) : t.periphery = s.periphery ∨ OutputBetween s t := by
  obtain ⟨-, rfl⟩ | ⟨-, n, -, hn⟩ | ⟨-, -, i, -, hi⟩ := cpuTurn_eq_next h
  · exact .inl rfl
  · exact .inl (takeInterrupt_periphery hn)
  · exact exec_periphery hi

end Sys2Proof.Machine
end

section
/-! What moves the LCD power switch, and what the LCD and the sound pin show, in the terms of O48. -/

namespace Sys2Proof.Machine

open Sys2Proof.Config

variable {s t : State}

/-! ### The command fields as numbers -/

theorem lcdMode_eq_enabled_iff (v : Nibble) : lcdMode v = .enabled ↔ v.toNat / 4 = 3 := by
  revert v; decide

theorem lcdMode_eq_blanking_iff (v : Nibble) : lcdMode v = .blanking ↔ v.toNat / 4 = 1 := by
  revert v; decide

theorem htcMode_eq_melody_iff (v : Nibble) : htcMode v = .melody ↔ v.toNat / 4 = 2 := by
  revert v; decide

theorem lcdCommons_add (v : Nibble) : lcdCommons v + v.toNat % 4 = 4 := by
  revert v; decide

theorem segmentAddr_eq (seg : Fin 32) : segmentAddr seg = BitVec.ofNat 9 (0x20 + seg.val) := by
  revert seg; decide

theorem Mode.running_iff (m : Mode) : m.running = true ↔ m ∈ [.normal, .slow] := by
  cases m <;> decide

/-! ### The LCD power switch -/

/-- What one step does to the switch: it keeps it, turns it off on entering STOP, or turns it on by LDC = 11. -/
inductive LcdSwitch (s t : State) : Prop where
  | kept (power : t.lcdPower = s.lcdPower)
  | off (power : t.lcdPower = false) (mode : t.mode = .stop)
  | on (power : t.lcdPower = true) (command : lcdMode t.cmd.p27 = .enabled)

/-- The switch depends on the periphery alone. -/
theorem LcdSwitch.of_periphery {u : State} (h : LcdSwitch s u) (ht : t.periphery = u.periphery) :
    LcdSwitch s t := by
  have hpower : t.lcdPower = u.lcdPower := congrArg Periphery.lcdPower ht
  have hmode : t.mode = u.mode := congrArg Periphery.mode ht
  have hcmd : t.cmd = u.cmd := congrArg Periphery.cmd ht
  cases h with
  | kept power => exact .kept (hpower.trans power)
  | off power mode => exact .off (hpower.trans power) (hmode.trans mode)
  | on power command => exact .on (hpower.trans power) (hcmd ▸ command)

/-- Only P16 and P27 move the switch (R368, R374). -/
theorem portOut_lcdSwitch {p : BitVec 5} {v : Nibble} (h : portOut p v s = .ok t) : LcdSwitch s t := by
  unfold portOut at h
  split at h
  case h_14 =>
    obtain ⟨-, rfl⟩ | ⟨-, -, rfl⟩ := writeP16_eq_ok h
    · exact .off rfl rfl
    · exact .kept rfl
  case h_15 =>
    obtain ⟨-, rfl⟩ | ⟨-, -, rfl⟩ := writeP19_eq_ok h
    all_goals exact .kept rfl
  case h_16 =>
    obtain ⟨-, ht⟩ | ⟨-, rfl⟩ := writeP21_eq_ok h
    · exact .kept (by rw [ht])
    · exact .kept rfl
  case h_17 =>
    obtain ⟨-, -, -, rfl⟩ | ⟨-, -, rfl⟩ | rfl := writeP22_eq_ok h
    all_goals exact .kept rfl
  case h_18 =>
    obtain ⟨-, rfl⟩ := writeP25_eq_ok h
    exact .kept rfl
  case h_19 =>
    obtain ⟨hv, rfl⟩ | ⟨-, rfl⟩ := writeP27_eq_ok h
    · exact .on rfl hv
    · exact .kept rfl
  case h_20 =>
    obtain ⟨-, rfl⟩ := writeP28_eq_ok h
    exact .kept rfl
  case h_22 =>
    obtain ⟨-, ht⟩ := writeP31_eq_ok h
    exact .kept (by rw [ht])
  case h_23 => cases h
  all_goals cases h; exact .kept rfl

theorem cpuTurn_lcdSwitch (h : cpuTurn s = .next t) : LcdSwitch s t := by
  obtain hkept | ⟨p, v, u, hu, hout⟩ := cpuTurn_periphery h
  · exact .kept (congrArg Periphery.lcdPower hkept)
  · exact (portOut_lcdSwitch hu).of_periphery hout

theorem releaseByPin_lcdPower (s : State) : (releaseByPin s).lcdPower = s.lcdPower := by
  obtain ⟨-, h⟩ | ⟨-, h⟩ | ⟨-, h⟩ := releaseByPin_cases s <;> simp [h]

theorem releaseByTimer_lcdPower (s : State) : (releaseByTimer s).lcdPower = s.lcdPower := by
  obtain ⟨-, h⟩ | h := releaseByTimer_cases s <;> simp [h]

theorem changePins_lcdPower (p : PinPort) (level : Nibble) (s : State) :
    (changePins p level s).lcdPower = s.lcdPower := by
  have edges (old new : Nibble) (allowed : Bool) (u : State) :
      (externalRequest p old new allowed (eventCount p old new u)).lcdPower = u.lcdPower := by
    rw [externalRequest_frame, eventCount_frame]
  unfold changePins
  dsimp only
  split
  · rw [releaseByPin_lcdPower, edges, State.setPins_lcdPower]
  · rw [edges, State.setPins_lcdPower]

/-- No device moves the switch but the three that may reset the chip. -/
theorem deviceAction_lcdPower {e : Event} (he : e ∉ [.resetPin, .wdtClock, .wdtTimeUp]) (s : State) :
    (deviceAction e s).lcdPower = s.lcdPower := by
  cases e with
  | cpu => rfl
  | pins p level => exact changePins_lcdPower p level s
  | int0 => rw [deviceAction]; split <;> rfl
  | int1 => rw [deviceAction]; split <;> rfl
  | timerAPulse => exact (congrArg State.lcdPower (pulseA_frame s) :)
  | timerBPulse => exact (congrArg State.lcdPower (pulseB_frame s) :)
  | htcClock => exact (congrArg State.lcdPower (clockHtc_frame s) :)
  | timeBaseTick => exact (congrArg State.lcdPower (tickTimeBase_frame s) :)
  | oscillator stable => rfl
  | wakePin =>
    rw [deviceAction]
    split
    · exact releaseByPin_lcdPower s
    · rfl
  | wakeTimer => exact releaseByTimer_lcdPower s
  | wdtClock => simp at he
  | wdtTimeUp => simp at he
  | resetPin => simp at he

/-- A device that may reset the chip turns the power off or keeps it. -/
theorem deviceAction_lcdPower_of_reset {e : Event} (he : e ∈ [.resetPin, .wdtClock, .wdtTimeUp]) (s : State) :
    (deviceAction e s).lcdPower = false ∨ (deviceAction e s).lcdPower = s.lcdPower := by
  simp only [List.mem_cons, List.not_mem_nil, or_false] at he
  obtain rfl | rfl | rfl := he
  · exact .inl rfl
  · obtain h | h | h := clockWdt_cases s
    · exact .inl (congrArg State.lcdPower h :)
    · exact .inr (congrArg State.lcdPower h :)
    · exact .inr (congrArg State.lcdPower h :)
  · rw [deviceAction]
    split
    · exact .inl rfl
    · exact .inr rfl

/-- Every step moves the switch as `LcdSwitch` says, or an event that may reset the chip leaves the power off. -/
theorem step_lcdSwitch (h : step s = .next t) :
    LcdSwitch s t ∨ (t.lcdPower = false ∧
      ∃ e rest, s.schedule = e :: rest ∧ e ∈ [.resetPin, .wdtClock, .wdtTimeUp]) := by
  obtain ⟨-, h⟩ | ⟨rest, -, h⟩ | ⟨e, rest, hs, -, rfl⟩ := step_eq_next h
  · exact .inl (cpuTurn_lcdSwitch h)
  · exact .inl (by cases cpuTurn_lcdSwitch h with
      | kept power => exact .kept power
      | off power mode => exact .off power mode
      | on power command => exact .on power command)
  · by_cases he : e ∈ [.resetPin, .wdtClock, .wdtTimeUp]
    · obtain hoff | hkept := deviceAction_lcdPower_of_reset he (s.setSchedule rest)
      · exact .inr ⟨hoff, e, rest, hs, he⟩
      · exact .inl (.kept hkept)
    · exact .inl (.kept (deviceAction_lcdPower he _))

theorem step_lcdPower_off (h : step s = .next t) (hs : s.lcdPower = true) (ht : t.lcdPower = false) :
    t.mode = .stop ∨ ∃ e rest, s.schedule = e :: rest ∧ e ∈ [.resetPin, .wdtClock, .wdtTimeUp] := by
  obtain hsw | ⟨-, hreset⟩ := step_lcdSwitch h
  · cases hsw with
    | kept power => simp [hs, ht] at power
    | off power mode => exact .inl mode
    | on power command => simp [ht] at power
  · exact .inr hreset

theorem step_lcdPower_on (h : step s = .next t) (hs : s.lcdPower = false) (ht : t.lcdPower = true) :
    t.cmd.p27.toNat / 4 = 3 := by
  obtain hsw | ⟨hoff, -⟩ := step_lcdSwitch h
  · cases hsw with
    | kept power => simp [hs, ht] at power
    | off power mode => simp [ht] at power
    | on power command => exact (lcdMode_eq_enabled_iff _).1 command
  · simp [ht] at hoff

/-! ### What the LCD and the sound pin show -/

theorem lcdShows_iff (s : State) :
    s.lcdShows = true ↔ s.lcdPower = true ∧ s.mode ≠ .stop ∧ s.cmd.p27.toNat / 4 = 3 := by
  simp only [State.lcdShows, State.lcdOn, Bool.and_eq_true, bne_iff_ne, beq_iff_eq, lcdMode_eq_enabled_iff,
    and_assoc]

theorem segmentsDriven_iff (s : State) :
    s.segmentsDriven = true ↔
      s.lcdPower = true ∧ (s.cmd.p27.toNat / 4 = 1 ∨ s.cmd.p27.toNat / 4 = 3) ∧ s.mode ≠ .stop := by
  simp only [State.segmentsDriven, Bool.or_eq_true, lcdShows_iff, State.lcdOn, Bool.and_eq_true, bne_iff_ne,
    beq_iff_eq, lcdMode_eq_blanking_iff]
  tauto

theorem isSegmentPin_iff (o : Options) (seg : Fin 32) :
    isSegmentPin o seg = true ↔ seg.val < 30 ∨ o.p3Segments = true := by
  simp only [isSegmentPin, Bool.or_eq_true, decide_eq_true_eq]

theorem lt_lcdCommons_iff (com : Nat) (v : Nibble) : com < lcdCommons v ↔ com + v.toNat % 4 < 4 := by
  have := lcdCommons_add v
  omega

theorem segmentData_iff (s : State) (seg : Fin 32) (com : Fin 4) :
    s.segmentData seg com = true ↔
      s.lcdPower = true ∧ (s.cmd.p27.toNat / 4 = 1 ∨ s.cmd.p27.toNat / 4 = 3) ∧ s.mode ≠ .stop ∧
        (seg.val < 30 ∨ s.opts.p3Segments = true) ∧ com.val + s.cmd.p27.toNat % 4 < 4 ∧
        (s.peek (BitVec.ofNat 9 (0x20 + seg.val))).getLsbD com.val = true := by
  simp only [State.segmentData, Bool.and_eq_true, segmentsDriven_iff, isSegmentPin_iff, decide_eq_true_eq,
    lt_lcdCommons_iff, segmentAddr_eq, and_assoc]

/-- That the chip is not in STOP is part of the segment data. -/
theorem lcdDot_iff (s : State) (seg : Fin 32) (com : Fin 4) :
    s.lcdDot seg com = true ↔
      s.lcdPower = true ∧ s.cmd.p27.toNat / 4 = 3 ∧ s.segmentData seg com = true := by
  rw [State.lcdDot, Bool.and_eq_true, lcdShows_iff]
  constructor
  · rintro ⟨⟨hpower, -, hldc⟩, hdata⟩
    exact ⟨hpower, hldc, hdata⟩
  · rintro ⟨hpower, hldc, hdata⟩
    obtain ⟨-, -, hmode, -⟩ := (segmentData_iff s seg com).1 hdata
    exact ⟨⟨hpower, hmode, hldc⟩, hdata⟩

theorem soundPin_iff (s : State) :
    s.soundPin = true ↔ s.mode ∈ [.normal, .slow] ∧ s.cmd.p31.toNat / 4 = 2 ∧ s.htc.sound = true := by
  simp only [State.soundPin, State.melody, Bool.and_eq_true, Mode.running_iff, beq_iff_eq,
    htcMode_eq_melody_iff, and_assoc]

/-- Settles O48: the power switch by `step_lcdSwitch`, the pins by what their definitions read. -/
theorem lcdAndSound : Obligations.LcdAndSound :=
  ⟨fun _ _ => step_lcdPower_off, lcdDot_iff, segmentData_iff, fun _ _ => step_lcdPower_on, soundPin_iff⟩

end Sys2Proof.Machine
end

section
/-! What an instruction does to the registers inside the CPU, said once for all instructions: where PC goes, which
flags follow the columns `C Z S`, who writes the registers that have few writers, and what becomes of memory. -/

namespace Sys2Proof.Machine

open Sys2Proof.Config

-- One proof after another: in parallel, each worker that waits for another one reserves memory of its own.
set_option Elab.async false

variable {i : Instr} {s t u : State}

/-! ### Flag cells -/

/-- What a cell of the columns `C Z S` says of one flag alone (R33). -/
def FlagCell.Holds (c : FlagCell) (old new : Bool) : Prop :=
  match c with
  | .keep => new = old
  | .zero => new = false
  | .one => new = true
  | _ => True

/-- What two cells of a row say of the two flags when they name the same carry or the same zero (R33). -/
def FlagCell.Pairs (c d : FlagCell) (x y : Bool) : Prop :=
  match c, d with
  | .carry, .carry => y = x
  | .carry, .noCarry => y = !x
  | .isZero, .nonZero => y = !x
  | _, _ => True

/-- The flags go from `s` to `t` as the columns say. -/
structure FlagsFollow (f : FlagColumns) (s t : State) : Prop where
  cf : f.c.Holds s.cf t.cf
  zf : f.z.Holds s.zf t.zf
  sf : f.s.Holds s.sf t.sf
  carries : f.c.Pairs f.s t.cf t.sf
  zeros : f.z.Pairs f.s t.zf t.sf

theorem FlagCell.Holds.keep {c : FlagCell} {old new : Bool} (h : c.Holds old new) (hc : c = .keep) : new = old := by
  subst hc; exact h

theorem FlagCell.Holds.zero {c : FlagCell} {old new : Bool} (h : c.Holds old new) (hc : c = .zero) :
    new = false := by
  subst hc; exact h

theorem FlagCell.Holds.one {c : FlagCell} {old new : Bool} (h : c.Holds old new) (hc : c = .one) : new = true := by
  subst hc; exact h

theorem FlagCell.Pairs.carry {c d : FlagCell} {x y : Bool} (h : c.Pairs d x y) (hc : c = .carry)
    (hd : d = .carry) : y = x := by
  subst hc hd; exact h

theorem FlagCell.Pairs.noCarry {c d : FlagCell} {x y : Bool} (h : c.Pairs d x y) (hc : c = .carry)
    (hd : d = .noCarry) : y = !x := by
  subst hc hd; exact h

theorem FlagCell.Pairs.nonZero {c d : FlagCell} {x y : Bool} (h : c.Pairs d x y) (hc : c = .isZero)
    (hd : d = .nonZero) : y = !x := by
  subst hc hd; exact h

/-! ### The effect of an instruction -/

/-- The instruction is no taken branch, no call and no return (R25). -/
def Proceeds (i : Instr) (s : State) : Prop :=
  match i with
  | .sbr _ => s.sf = false
  | .lbr _ => s.sf = false
  | .slbrHigh _ => s.sf = false
  | .slbrLow _ => s.sf = false
  | .lcall _ => False
  | .scall _ => False
  | .ret => False
  | .rti => False
  | _ => True

/-- What instruction `i` may do on the way from `s` to `t`. A clause that is not given says that the register is
left alone. -/
structure Effect (i : Instr) (s t : State) : Prop where
  pc : Proceeds i s → t.pc = s.nextPc i.length := by exact fun _ => rfl
  flags : s.opts.bulletCWritesCF = false → FlagsFollow (flagColumns i) s t
  mask : t.mask ≠ s.mask → i = .exae := by exact fun h => absurd rfl h
  ei : t.ei ≠ s.ei → i = .rti ∨ ∃ r, i = .eicil r ∨ i = .dicil r := by exact fun h => absurd rfl h
  il : t.il = s.il ∨ ∃ r, t.il = s.il &&& r ∧ (i = .cil r ∨ i = .dicil r ∨ i = .eicil r) := by exact .inl rfl
  sp : i.wf = true → t.sp ≠ s.sp → isCall i = true ∨ i ∈ [.ret, .rti, .stasp] := by
    exact fun _ h => absurd rfl h
  dp : i.wf = true → t.dp ≠ s.dp → i ∈ [.ldaxi, .stadpl, .stadpm, .stadph] := by exact fun _ h => absurd rfl h
  ta : i.wf = true → t.ta ≠ s.ta → i ∈ [.statal, .statam, .statah] := by exact fun _ h => absurd rfl h
  tb : i.wf = true → t.tb ≠ s.tb → i ∈ [.statbl, .statbm, .statbh] := by exact fun _ h => absurd rfl h
  stack : s.opts.stackMap = some [] → t.stack ≠ s.stack → isCall i = true := by exact fun _ h => absurd rfl h
  ram : Memory.wf isRamAddr s.ram = true → Memory.wf isRamAddr t.ram = true := by exact id

/-! ### Ordinary instructions -/

/-- The registers in the CPU beside Acc, HR, LR and the flags. -/
structure Control where
  pc : RomAddr
  sp : Nibble
  dp : Word12
  ta : Word12
  tb : Word12
  ei : Bool
  mask : Nibble
  il : BitVec 6

def State.control (s : State) : Control := ⟨s.pc, s.sp, s.dp, s.ta, s.tb, s.ei, s.mask, s.il⟩

/-- `u` has the registers of `s`; its memory is that of `s` after stores at RAM addresses. -/
structure SameRegisters (s u : State) : Prop where
  control : u.control = s.control
  cf : u.cf = s.cf
  zf : u.zf = s.zf
  sf : u.sf = s.sf
  opts : u.opts = s.opts
  stack : s.opts.stackMap = some [] → u.stack = s.stack
  ram : Memory.wf isRamAddr s.ram = true → Memory.wf isRamAddr u.ram = true

/-- `t` is `u` with other values in Acc, HR and LR, the flags by the columns, and PC at the next instruction. -/
structure Ordinary (f : FlagColumns) (len : Nat) (u t : State) : Prop where
  flags : u.opts.bulletCWritesCF = false → FlagsFollow f u t
  control : t.control = (u.advance len).control := by exact rfl
  stack : t.stack = u.stack := by exact rfl
  ram : t.ram = u.ram := by exact rfl

theorem SameRegisters.refl (s : State) : SameRegisters s s := ⟨rfl, rfl, rfl, rfl, rfl, fun _ => rfl, id⟩

theorem SameRegisters.trans (h : SameRegisters s u) (h' : SameRegisters u t) : SameRegisters s t where
  control := h'.control.trans h.control
  cf := h'.cf.trans h.cf
  zf := h'.zf.trans h.zf
  sf := h'.sf.trans h.sf
  opts := h'.opts.trans h.opts
  stack hs := (h'.stack (h.opts ▸ hs)).trans (h.stack hs)
  ram hr := h'.ram (h.ram hr)

/-- With the stack apart from RAM a store never reaches it (R44). -/
theorem State.poke_stack_of_apart (s : State) (a : DataAddr) (v : Nibble) (h : s.opts.stackMap = some []) :
    (s.poke a v).stack = s.stack :=
  s.poke_stack v (s.unvouched_of_set h a) (by simp [State.stackSlot, h])

theorem SameRegisters.poke (s : State) {a : DataAddr} (v : Nibble) (ha : isSpecialArea a = false) :
    SameRegisters s (s.poke a v) where
  control := by rw [State.poke_eq]; rfl
  cf := by rw [State.poke_eq]
  zf := by rw [State.poke_eq]
  sf := by rw [State.poke_eq]
  opts := by rw [State.poke_eq]
  stack := s.poke_stack_of_apart a v
  ram h := s.poke_ram_wf a v h (isSpecialArea_false ha)

theorem SameRegisters.drawn (s : State) : SameRegisters s s.drawn := ⟨rfl, rfl, rfl, rfl, rfl, fun _ => rfl, id⟩

theorem SameRegisters.portOut {p : BitVec 5} {v : Nibble} (h : portOut p v s = .ok u) : SameRegisters s u := by
  rw [portOut_frame h]
  exact ⟨rfl, rfl, rfl, rfl, rfl, fun _ => rfl, id⟩

theorem FlagsFollow.of_sameRegisters {f : FlagColumns} (h : SameRegisters s u) (hf : FlagsFollow f u t) :
    FlagsFollow f s t :=
  ⟨h.cf ▸ hf.cf, h.zf ▸ hf.zf, h.sf ▸ hf.sf, hf.carries, hf.zeros⟩

theorem Effect.of_ordinary {f : FlagColumns} (h : SameRegisters s u) (ho : Ordinary f i.length u t)
    (hf : flagColumns i = f) : Effect i s t := by
  subst hf
  have hc : t.control = (s.advance i.length).control := by
    rw [ho.control]
    have hc := h.control
    simp only [State.control, Control.mk.injEq] at hc
    simp [State.control, State.advance, State.nextPc, hc]
  have kept {α : Type} (f : Control → α) (hf : f (s.advance i.length).control = f s.control) :
      f t.control = f s.control := (congrArg f hc).trans hf
  exact
    { pc := fun _ => congrArg Control.pc hc
      flags := fun hb => (ho.flags (h.opts ▸ hb)).of_sameRegisters h
      mask := fun hn => absurd (kept Control.mask rfl) hn
      ei := fun hn => absurd (kept Control.ei rfl) hn
      il := .inl (kept Control.il rfl)
      sp := fun _ hn => absurd (kept Control.sp rfl) hn
      dp := fun _ hn => absurd (kept Control.dp rfl) hn
      ta := fun _ hn => absurd (kept Control.ta rfl) hn
      tb := fun _ hn => absurd (kept Control.tb rfl) hn
      stack := fun hs hn => absurd (ho.stack.trans (h.stack hs)) hn
      ram := fun hr => ho.ram ▸ h.ram hr }

/-- An instruction that writes Acc, HR, LR and flags only. -/
theorem Ordinary.effect {f : FlagColumns} (h : Ordinary f i.length s t) (hf : flagColumns i = f) : Effect i s t :=
  .of_ordinary (.refl s) h hf

/-! ### Shapes of instructions -/

theorem flagsSet_ordinary (u : State) {len n : Nat} (h : len = n) :
    Ordinary ⟨.keep, .keep, .one⟩ len u (u.flagsSet.advance n) := by
  subst h
  exact { flags := fun _ => ⟨rfl, rfl, rfl, trivial, trivial⟩ }

theorem loadAcc_ordinary (len : Nat) (v : Nibble) (u : State) :
    Ordinary ⟨.keep, .isZero, .one⟩ len u (loadAcc len v u) where
  flags _ := ⟨rfl, trivial, rfl, trivial, trivial⟩

theorem logicAcc_ordinary (len : Nat) (v : Nibble) (u : State) :
    Ordinary ⟨.keep, .isZero, .nonZero⟩ len u (logicAcc len v u) where
  flags _ := ⟨rfl, trivial, trivial, trivial, rfl⟩

theorem compareEq_ordinary (len : Nat) (a b : Nibble) (u : State) :
    Ordinary ⟨.carry, .isZero, .nonZero⟩ len u (compareEq len a b u) where
  flags _ := ⟨trivial, trivial, trivial, trivial, rfl⟩

theorem storeData_effect {f : FlagColumns} {a : DataAddr} {v : Nibble} {k : State → State}
    (h : onOk (writeData a v s) (fun u => .next (k u)) = .next t) (hf : flagColumns i = f)
    (hk : ∀ u, Ordinary f i.length u (k u)) : Effect i s t := by
  obtain ⟨ha, rfl⟩ := onOk_writeData_eq_next h
  exact .of_ordinary (.poke s v ha) (hk _) hf

theorem storeThenStep_effect {f : FlagColumns} {v : Nibble} {r : Alu} {g : State → Alu → State}
    (h : storeThenStep v r g s = .next t) (hf : flagColumns i = f)
    (hg : ∀ u, Ordinary f i.length u ((g (u.setLr r.val) r).advance 1)) : Effect i s t :=
  storeData_effect h hf hg

theorem updateData_effect {f : FlagColumns} {a : DataAddr} {k : Nibble → Alu} {g : State → Alu → State}
    (h : updateData a i.length k g s = .next t) (hf : flagColumns i = f)
    (hg : ∀ u r, Ordinary f i.length u ((g u r).advance i.length)) : Effect i s t := by
  obtain ⟨ha, rfl⟩ := updateData_eq_next h
  exact .of_ordinary (.poke s _ ha) (hg _ _) hf

theorem exchangeData_effect {a : DataAddr} (h : exchangeData a i.length s = .next t)
    (hf : flagColumns i = ⟨.keep, .isZero, .one⟩) : Effect i s t := by
  obtain ⟨ha, rfl⟩ := exchangeData_eq_next h
  exact .of_ordinary (.poke s _ ha) (loadAcc_ordinary _ _ _) hf

theorem branchTo_effect {target : RomAddr} (h : branchTo target i.length s = .next t)
    (hf : flagColumns i = ⟨.keep, .keep, .one⟩) (hp : Proceeds i s → s.sf = false) : Effect i s t := by
  obtain rfl := branchTo_eq_next h
  exact
    { pc := fun hi => by simp [hp hi]
      flags := fun _ => by rw [hf]; exact ⟨rfl, rfl, rfl, trivial, trivial⟩ }

theorem callTo_effect {target : RomAddr} {len : Nat} (h : callTo target len s = .next t) (hi : isCall i = true)
    (hf : flagColumns i = ⟨.keep, .keep, .keep⟩) (hp : ¬ Proceeds i s) : Effect i s t := by
  obtain ⟨-, rfl⟩ := callTo_eq_next h
  exact
    { pc := fun hi => absurd hi hp
      flags := fun _ => by rw [hf]; exact ⟨rfl, rfl, rfl, trivial, trivial⟩
      sp := fun _ _ => .inl hi
      stack := fun _ _ => hi }

/-- The instructions that store to a special register (R39). -/
def Special.writers : Special → List Instr
  | .ta _ => [.statal, .statam, .statah]
  | .tb _ => [.statbl, .statbm, .statbh]
  | .dp _ => [.stadpl, .stadpm, .stadph]
  | .sp => [.stasp]

theorem putSpecial_effect {r : Special} {v : Nibble} (hi : i.wf = true → i ∈ r.writers) (hl : i.length = 2)
    (hf : flagColumns i = ⟨.keep, .keep, .one⟩) : Effect i s ((s.putSpecial r v).flagsSet.advance 2) := by
  cases r with
  | ta p =>
    change Effect i s { s with ta := p.put s.ta v, sf := true, pc := s.nextPc 2 }
    exact
      { pc := fun _ => hl ▸ rfl
        flags := fun _ => by rw [hf]; exact ⟨rfl, rfl, rfl, trivial, trivial⟩
        ta := fun hw _ => hi hw }
  | tb p =>
    change Effect i s { s with tb := p.put s.tb v, sf := true, pc := s.nextPc 2 }
    exact
      { pc := fun _ => hl ▸ rfl
        flags := fun _ => by rw [hf]; exact ⟨rfl, rfl, rfl, trivial, trivial⟩
        tb := fun hw _ => hi hw }
  | dp p =>
    change Effect i s { s with dp := p.put s.dp v, sf := true, pc := s.nextPc 2 }
    exact
      { pc := fun _ => hl ▸ rfl
        flags := fun _ => by rw [hf]; exact ⟨rfl, rfl, rfl, trivial, trivial⟩
        dp := fun hw _ => .tail _ (hi hw) }
  | sp =>
    change Effect i s { s with sp := v, sf := true, pc := s.nextPc 2 }
    exact
      { pc := fun _ => hl ▸ rfl
        flags := fun _ => by rw [hf]; exact ⟨rfl, rfl, rfl, trivial, trivial⟩
        sp := fun hw _ => .inr (.tail _ (.tail _ (hi hw))) }

theorem storeDirect_effect {x : Byte} (h : storeDirect x s = .next t) (hl : i.length = 2)
    (hf : flagColumns i = ⟨.keep, .keep, .one⟩)
    (hi : i.wf = true → ∀ b r, specialAt (BitVec.ofBool b ++ x) = some r → i ∈ r.writers) :
    Effect i s t := by
  obtain ⟨u, hu, rfl⟩ := storeDirect_eq_next h
  obtain ⟨ha, rfl⟩ | ⟨-, r, hr, rfl⟩ := writeDirect_eq_ok hu
  · exact .of_ordinary (.poke s _ ha) (flagsSet_ordinary _ hl) hf
  · exact putSpecial_effect (fun hw => hi hw s.bank r hr) hl hf

/-- A store by the address of one special register. -/
theorem storeSpecial_effect {x : Byte} (r : Special) (h : storeDirect x s = .next t) (hl : i.length = 2)
    (hf : flagColumns i = ⟨.keep, .keep, .one⟩) (hi : i ∈ r.writers)
    (hx : ∀ b : Bool, specialAt (BitVec.ofBool b ++ x) = none ∨ specialAt (BitVec.ofBool b ++ x) = some r) :
    Effect i s t := by
  refine storeDirect_effect h hl hf fun _ b r' hr' => ?_
  obtain hn | hr := hx b
  · rw [hn] at hr'; cases hr'
  · rw [hr] at hr'; cases hr'; exact hi

/-- STA x of a special register's address is no instruction of its own (R106). -/
theorem specialAt_eq_none_of_not_namesSpecial :
    ∀ x : Byte, namesSpecial x = false → ∀ b : Bool, specialAt (BitVec.ofBool b ++ x) = none := by
  decide

theorem outputTo_effect {p : BitVec 5} {v : Nibble} (h : outputTo p v s = .next t) (hl : i.length = 2)
    (hf : flagColumns i = ⟨.keep, .keep, .one⟩) : Effect i s t := by
  obtain ⟨u, hu, rfl⟩ := outputTo_eq_next h
  exact .of_ordinary (.portOut hu) (flagsSet_ordinary u hl) hf

theorem updatePort_effect {p : BitVec 5} {f : Nibble → Nibble} (h : updatePort p i.length f s = .next t)
    (hf : flagColumns i = ⟨.keep, .keep, .one⟩) : Effect i s t := by
  obtain ⟨u, hu, rfl⟩ := updatePort_eq_next h
  exact .of_ordinary (.portOut hu) (flagsSet_ordinary u rfl) hf

/-- The bullet in the C column is a write of CF that may keep its value (D31). -/
theorem State.bulletCarry_eq (s : State) (r : Alu) :
    s.bulletCarry r = s.setCf (if s.opts.bulletCWritesCF then r.carry else s.cf) := by
  unfold State.bulletCarry; split <;> rfl

/-! ### All instructions -/

/-- Every instruction has the effect that its rows in the tables allow. -/
theorem exec_effect (h : exec i s = .next t) : Effect i s t := by
  cases i
  -- control flow
  case sbr | lbr | slbrHigh | slbrLow => exact branchTo_effect h rfl id
  case lcall | scall => exact callTo_effect h rfl rfl id
  case ret =>
    obtain ⟨-, rfl⟩ := exec_ret_next h
    exact { pc := False.elim, flags := fun _ => ⟨rfl, rfl, rfl, trivial, trivial⟩, sp := fun _ _ => .inr (by simp) }
  case rti =>
    obtain ⟨hs, rfl⟩ := exec_rti_next h
    generalize s.stack[(s.sp + 1#4).toNat]'hs = e
    simp only [State.setSp, State.setPc, State.setCf, State.setZf, State.setSf, State.setEi]
    exact
      { pc := False.elim
        flags := fun _ => ⟨trivial, trivial, trivial, trivial, trivial⟩
        ei := fun _ => .inl rfl
        sp := fun _ _ => .inr (by simp) }
  -- registers with few writers
  case cil r =>
    obtain rfl := exec_cil_next r h
    exact { flags := fun _ => ⟨rfl, rfl, rfl, trivial, trivial⟩, il := .inr ⟨r, rfl, .inl rfl⟩ }
  case dicil r =>
    obtain rfl := exec_dicil_next r h
    exact
      { flags := fun _ => ⟨rfl, rfl, rfl, trivial, trivial⟩
        ei := fun _ => .inr ⟨r, .inr rfl⟩
        il := .inr ⟨r, rfl, .inr (.inl rfl)⟩ }
  case eicil r =>
    obtain rfl := exec_eicil_next r h
    exact
      { flags := fun _ => ⟨rfl, rfl, rfl, trivial, trivial⟩
        ei := fun _ => .inr ⟨r, .inl rfl⟩
        il := .inr ⟨r, rfl, .inr (.inr rfl)⟩ }
  case exae =>
    obtain rfl := exec_exae_next h
    exact { flags := fun _ => ⟨rfl, rfl, rfl, trivial, trivial⟩, mask := fun _ => rfl }
  case ldaxi =>
    obtain rfl := exec_ldaxi_next h
    exact { flags := fun _ => ⟨rfl, trivial, rfl, trivial, trivial⟩, dp := fun _ _ => by simp }
  case statal => exact storeSpecial_effect (.ta .low) h rfl rfl (by simp [Special.writers]) (by decide)
  case statam => exact storeSpecial_effect (.ta .middle) h rfl rfl (by simp [Special.writers]) (by decide)
  case statah => exact storeSpecial_effect (.ta .high) h rfl rfl (by simp [Special.writers]) (by decide)
  case statbl => exact storeSpecial_effect (.tb .low) h rfl rfl (by simp [Special.writers]) (by decide)
  case statbm => exact storeSpecial_effect (.tb .middle) h rfl rfl (by simp [Special.writers]) (by decide)
  case statbh => exact storeSpecial_effect (.tb .high) h rfl rfl (by simp [Special.writers]) (by decide)
  case stadpl => exact storeSpecial_effect (.dp .low) h rfl rfl (by simp [Special.writers]) (by decide)
  case stadpm => exact storeSpecial_effect (.dp .middle) h rfl rfl (by simp [Special.writers]) (by decide)
  case stadph => exact storeSpecial_effect (.dp .high) h rfl rfl (by simp [Special.writers]) (by decide)
  case stasp => exact storeSpecial_effect .sp h rfl rfl (by simp [Special.writers]) (by decide)
  case sta x =>
    refine storeDirect_effect h rfl rfl fun hw b r hr => ?_
    rw [specialAt_eq_none_of_not_namesSpecial x (by simpa [Instr.wf] using hw)] at hr
    cases hr
  -- ports
  case clp p b => exact updatePort_effect (f := fun v => clearBit v b) h rfl
  case clpl => exact updatePort_effect (f := fun v => clearBit v s.lrBit) h rfl
  case sep p b => exact updatePort_effect (f := fun v => setBit v b) h rfl
  case sepl => exact updatePort_effect (f := fun v => setBit v s.lrBit) h rfl
  case out | outa => exact outputTo_effect h rfl rfl
  case outm => exact outputTo_effect (withHl_eq_next h).2 rfl rfl
  case tfp | ttp | tfpl =>
    obtain ⟨v, -, ht⟩ := onOk_eq_next h
    obtain rfl := Host.Outcome.next.inj ht
    exact Ordinary.effect (f := ⟨.keep, .keep, .star⟩) { flags := fun _ => ⟨rfl, rfl, trivial, trivial, trivial⟩ } rfl
  case ina =>
    obtain ⟨v, -, rfl⟩ := exec_ina_next _ h
    exact .of_ordinary (.drawn s) (logicAcc_ordinary _ v _) rfl
  case inm =>
    obtain ⟨v, -, ha, rfl⟩ := exec_inm_next _ h
    have hu := (SameRegisters.drawn s).trans (.poke _ v ha)
    generalize s.drawn.poke s.eaHl v = u at hu ⊢
    exact .of_ordinary (f := ⟨.keep, .keep, .nonZero⟩) hu
      { flags := fun _ => ⟨rfl, rfl, trivial, trivial, trivial⟩ } rfl
  -- Acc, HR, LR and flags, no memory
  case ldax | ldia | tha | tla =>
    obtain rfl := Host.Outcome.next.inj h
    exact (loadAcc_ordinary _ _ s).effect rfl
  case exah | exal =>
    obtain rfl := Host.Outcome.next.inj h
    exact Ordinary.effect (f := ⟨.keep, .isZero, .one⟩)
      { flags := fun _ => ⟨rfl, trivial, rfl, trivial, trivial⟩ } rfl
  case ldh | ldl =>
    obtain rfl := Host.Outcome.next.inj h
    exact Ordinary.effect (f := ⟨.keep, .keep, .one⟩) { flags := fun _ => ⟨rfl, rfl, rfl, trivial, trivial⟩ } rfl
  case rlca | rrca =>
    obtain rfl := Host.Outcome.next.inj h
    exact Ordinary.effect (f := ⟨.carry, .isZero, .noCarry⟩)
      { flags := fun _ => ⟨trivial, trivial, trivial, rfl, trivial⟩ } rfl
  case adda | addh | addl | inca | incl =>
    obtain rfl := Host.Outcome.next.inj h
    exact Ordinary.effect (f := ⟨.keep, .isZero, .noCarry⟩)
      { flags := fun _ => ⟨rfl, trivial, trivial, trivial, trivial⟩ } rfl
  case decl | suba | cmph | cmpl =>
    obtain rfl := Host.Outcome.next.inj h
    exact Ordinary.effect (f := ⟨.keep, .isZero, .carry⟩)
      { flags := fun _ => ⟨rfl, trivial, trivial, trivial, trivial⟩ } rfl
  case deca =>
    obtain ⟨r, -, rfl⟩ := exec_deca_next h
    rw [State.bulletCarry_eq]
    exact Ordinary.effect (f := ⟨.keep, .isZero, .carry⟩)
      { flags := fun hb => ⟨if_neg (by simp [hb]), trivial, trivial, trivial, trivial⟩ } rfl
  case anda | ora =>
    obtain rfl := Host.Outcome.next.inj h
    exact (logicAcc_ordinary _ _ s).effect rfl
  case cmpia =>
    obtain rfl := Host.Outcome.next.inj h
    exact (compareEq_ordinary _ _ _ s).effect rfl
  case tfa | tzs =>
    obtain rfl := Host.Outcome.next.inj h
    exact Ordinary.effect (f := ⟨.keep, .keep, .star⟩) { flags := fun _ => ⟨rfl, rfl, trivial, trivial, trivial⟩ } rfl
  case tfcfc =>
    obtain rfl := exec_tfcfc_next h
    exact Ordinary.effect (f := ⟨.zero, .keep, .star⟩) { flags := fun _ => ⟨rfl, rfl, trivial, trivial, trivial⟩ } rfl
  case ttcfs =>
    obtain rfl := exec_ttcfs_next h
    exact Ordinary.effect (f := ⟨.one, .keep, .star⟩) { flags := fun _ => ⟨rfl, rfl, trivial, trivial, trivial⟩ } rfl
  case nop =>
    obtain rfl := exec_nop_next h
    exact Ordinary.effect (f := ⟨.keep, .keep, .keep⟩) { flags := fun _ => ⟨rfl, rfl, rfl, trivial, trivial⟩ } rfl
  -- a nibble of memory read
  case ldam =>
    obtain ⟨-, rfl⟩ := exec_ldam_next h
    exact (loadAcc_ordinary _ _ s).effect rfl
  case lda | ldatal | ldatam | ldatah | ldatbl | ldatbm | ldatbh | ldadpl | ldadpm | ldadph | ldasp =>
    obtain ⟨v, -, rfl⟩ := loadDirect_eq_next h
    exact (loadAcc_ordinary _ _ s).effect rfl
  case ldhl =>
    obtain ⟨-, -, rfl⟩ := exec_ldhl_next _ h
    exact Ordinary.effect (f := ⟨.keep, .keep, .one⟩) { flags := fun _ => ⟨rfl, rfl, rfl, trivial, trivial⟩ } rfl
  case adcam =>
    obtain ⟨-, r, -, rfl⟩ := exec_adcam_next h
    exact Ordinary.effect (f := ⟨.carry, .isZero, .noCarry⟩)
      { flags := fun _ => ⟨trivial, trivial, trivial, rfl, trivial⟩ } rfl
  case sbcam =>
    obtain ⟨-, r, -, rfl⟩ := exec_sbcam_next h
    exact Ordinary.effect (f := ⟨.carry, .isZero, .carry⟩)
      { flags := fun _ => ⟨trivial, trivial, trivial, rfl, trivial⟩ } rfl
  case addam =>
    obtain ⟨-, r, -, rfl⟩ := exec_addam_next h
    rw [State.bulletCarry_eq]
    exact Ordinary.effect (f := ⟨.keep, .isZero, .noCarry⟩)
      { flags := fun hb => ⟨if_neg (by simp [hb]), trivial, trivial, trivial, trivial⟩ } rfl
  case andam | oram | xoram =>
    obtain ⟨-, ht⟩ := withHl_eq_next h
    obtain rfl := Host.Outcome.next.inj ht
    exact (logicAcc_ordinary _ _ s).effect rfl
  case cmp | cmpa | cmpam =>
    obtain ⟨-, rfl⟩ := onOk_readData_eq_next h
    exact (compareEq_ordinary _ _ _ s).effect rfl
  case tf | tfm | tt =>
    obtain ⟨-, rfl⟩ := onOk_readData_eq_next h
    exact Ordinary.effect (f := ⟨.keep, .keep, .star⟩) { flags := fun _ => ⟨rfl, rfl, trivial, trivial, trivial⟩ } rfl
  -- a nibble of memory written
  case stam | std =>
    exact storeData_effect (f := ⟨.keep, .keep, .one⟩) h rfl fun _ =>
      { flags := fun _ => ⟨rfl, rfl, rfl, trivial, trivial⟩ }
  case stami | stdmi =>
    exact storeThenStep_effect (f := ⟨.keep, .isZero, .noCarry⟩) h rfl fun _ =>
      { flags := fun _ => ⟨rfl, trivial, trivial, trivial, trivial⟩ }
  case stamd =>
    exact storeThenStep_effect (f := ⟨.keep, .isZero, .carry⟩) h rfl fun _ =>
      { flags := fun _ => ⟨rfl, trivial, trivial, trivial, trivial⟩ }
  case add | addm | incm =>
    exact updateData_effect (f := ⟨.keep, .isZero, .noCarry⟩) h rfl fun _ _ =>
      { flags := fun _ => ⟨rfl, trivial, trivial, trivial, trivial⟩ }
  case decm | subm =>
    exact updateData_effect (f := ⟨.keep, .isZero, .carry⟩) h rfl fun _ _ =>
      { flags := fun _ => ⟨rfl, trivial, trivial, trivial, trivial⟩ }
  case andm | orm =>
    exact updateData_effect (f := ⟨.keep, .isZero, .nonZero⟩) h rfl fun _ _ =>
      { flags := fun _ => ⟨rfl, trivial, trivial, trivial, rfl⟩ }
  case clm | clr | sem | set =>
    exact updateData_effect (f := ⟨.keep, .keep, .one⟩) h rfl fun _ _ =>
      { flags := fun _ => ⟨rfl, rfl, rfl, trivial, trivial⟩ }
  case exa | exam => exact exchangeData_effect h rfl
  case exhl =>
    obtain ⟨ha, hb, rfl⟩ := exec_exhl_next _ h
    have hu := (SameRegisters.poke s s.lr ha).trans (.poke _ s.hr hb)
    generalize (s.poke _ s.lr).poke _ s.hr = u at hu ⊢
    exact .of_ordinary (f := ⟨.keep, .keep, .one⟩) hu { flags := fun _ => ⟨rfl, rfl, rfl, trivial, trivial⟩ } rfl

end Sys2Proof.Machine
end

section
/-! The rules of the whole machine that follow from the effect of an instruction: PC, the flag columns, and who
writes the registers with few writers. -/

namespace Sys2Proof.Machine

open Sys2Proof.Config

variable {i : Instr} {s t : State}

/-- The encoder writes as many bytes as the instruction is long (R100). -/
theorem encode_length (i : Instr) : i.encode.length = i.length := by
  cases i <;> rfl

/-- Settles O40: PC is the first clause of `Effect`. -/
theorem pcAdvancesByTheLength : Obligations.PcAdvancesByTheLength := by
  intro i s t h hi
  rw [encode_length]
  exact (exec_effect h).pc (by cases i <;> exact hi)

/-- Settles O52: each clause reads one cell, or the pair of cells, of the row. -/
theorem flagColumnsHold : Obligations.FlagColumnsHold := by
  intro i s t h hb
  have hf := (exec_effect h).flags hb
  exact ⟨hf.cf.keep, hf.cf.zero, hf.cf.one, hf.zf.keep, hf.sf.keep, hf.sf.one, hf.carries.carry, hf.carries.noCarry,
    hf.zeros.nonZero⟩

/-- The latches of IL after an instruction are a part of those before. -/
theorem Effect.il_getLsbD (h : Effect i s t) {b : Nat} (hb : s.il.getLsbD b = false) : t.il.getLsbD b = false := by
  obtain hil | ⟨r, hil, -⟩ := h.il
  · rw [hil, hb]
  · rw [hil, BitVec.getLsbD_and, hb, Bool.false_and]

/-- Settles O53. -/
theorem interruptStateWriters : Obligations.InterruptStateWriters := by
  intro i s t h
  have he := exec_effect h
  refine ⟨he.mask, he.ei, fun _ => he.il_getLsbD, fun hn => ?_⟩
  obtain ⟨r, -, hi⟩ := he.il.resolve_left hn
  exact ⟨r, hi⟩

/-- Settles O54. -/
theorem specialRegisterWriters : Obligations.SpecialRegisterWriters := by
  intro i s t h hw
  have he := exec_effect h
  exact ⟨he.sp hw, he.dp hw, he.ta hw, he.tb hw, he.stack⟩

end Sys2Proof.Machine
end

section
/-! The stack: calls, returns and interrupt acceptance as equations, and what follows for nested calls. -/

namespace Sys2Proof.Machine

open Sys2Proof.Config

variable {i : Instr} {s t u : State}

/-! ### Pushes and pops -/

theorem pushEntry_of_lt (e : StackEntry) (h : s.sp.toNat < 13) :
    pushEntry e s = .ok ((s.setStack (s.stack.set s.sp.toNat e h)).setSp (s.sp - 1#4)) :=
  dif_pos h

theorem pushEntry_of_ge (e : StackEntry) (h : 13 ≤ s.sp.toNat) : pushEntry e s = .error .stackLevelOutOfRange :=
  dif_neg (by omega)

theorem popEntry_of_getElem? {e : StackEntry} (h : s.stack[(s.sp + 1#4).toNat]? = some e) :
    popEntry s = .ok (e, s.setSp (s.sp + 1#4)) := by
  obtain ⟨hlt, rfl⟩ := Vector.getElem?_eq_some_iff.1 h
  exact dif_pos hlt

theorem popEntry_of_ge (h : 13 ≤ (s.sp + 1#4).toNat) : popEntry s = .error .stackLevelOutOfRange :=
  dif_neg (by omega)

/-! ### Calls and returns -/

theorem callTo_of_lt (target : RomAddr) (len : Nat) (h : s.sp.toNat < 13) :
    callTo target len s = .next (((s.drawn.setStack
      (s.stack.set s.sp.toNat (s.callEntry (s.nextPc len)) h)).setSp (s.sp - 1#4)).setPc target) := by
  rw [callTo, pushEntry_of_lt (s := s.drawn) _ h]
  rfl

theorem callTo_of_ge (target : RomAddr) (len : Nat) (h : 13 ≤ s.sp.toNat) :
    callTo target len s = .fault .stackLevelOutOfRange := by
  rw [callTo, pushEntry_of_ge (s := s.drawn) _ h]
  rfl

/-- LCALL and SCALL differ in their targets only. -/
theorem exec_call (hi : isCall i = true) : ∃ target, ∀ s, exec i s = callTo target i.length s := by
  cases i
  case lcall | scall => exact ⟨_, fun _ => rfl⟩
  all_goals cases hi

theorem exec_ret_of_getElem? {e : StackEntry} (h : s.stack[(s.sp + 1#4).toNat]? = some e) :
    exec .ret s = .next { s with sp := s.sp + 1#4, pc := e.pc } := by
  rw [exec, execRet, popEntry_of_getElem? h]
  rfl

theorem exec_rti_of_getElem? {e : StackEntry} (h : s.stack[(s.sp + 1#4).toNat]? = some e) :
    exec .rti s = .next
      { s with sp := s.sp + 1#4, pc := e.pc, cf := e.cf, zf := e.zf, sf := e.sf, ei := true } := by
  rw [exec, execRti, returnFromInterrupt, popEntry_of_getElem? h]
  rfl

/-- Settles O26: the level SP + 1 names is read (R42). -/
theorem returns : Obligations.Returns := by
  refine ⟨⟨⟨rfl, rfl, fun _ => rfl⟩, rfl, rfl, fun _ => rfl⟩, fun s e h => ?_⟩
  have hlevel : s.stack[(s.sp + 1#4).toNat]? = some e := by rwa [BitVec.toNat_add]
  exact ⟨exec_ret_of_getElem? hlevel, exec_rti_of_getElem? hlevel⟩

/-- Settles O27: a pop undoes the change of SP by the push and reads the level it wrote. -/
theorem returnAfterCall : Obligations.ReturnAfterCall := by
  intro i s t u hi h hsp hstack
  obtain ⟨target, hcall⟩ := exec_call hi
  rw [hcall] at h
  obtain ⟨hs, rfl⟩ := callTo_eq_next h
  have hback : u.sp + 1#4 = s.sp := by simp [hsp]
  have hlevel : u.stack[(u.sp + 1#4).toNat]? = some (s.callEntry (s.nextPc i.length)) := by
    rw [hback, hstack]
    simp [hs]
  rw [exec_ret_of_getElem? hlevel, hback]
  rfl

/-! ### Levels out of range -/

/-- A row of the interrupt table asks for what the model's source needs. -/
theorem acceptable_of_requested {r : Nat × RomAddr × Option Nat} (hr : r ∈ sourceTable)
    (h : requested s r = true) : ∃ n, s.acceptable n = true := by
  simp only [sourceTable, List.mem_cons, List.not_mem_nil, or_false] at hr
  obtain rfl | rfl | rfl | rfl | rfl | rfl := hr
  · exact ⟨.int0, h⟩
  · exact ⟨.htci, h⟩
  · exact ⟨.trga, h⟩
  · exact ⟨.trgb, h⟩
  · exact ⟨.tbi, h⟩
  · exact ⟨.int1, h⟩

theorem ite_some_eq_none_iff {α : Type} {c : Prop} [Decidable c] {x : α} {o : Option α} :
    (if c then some x else o) = none ↔ ¬ c ∧ o = none := by
  split <;> simp [*]

theorem pendingSource_ne_none {n : Source} (h : s.acceptable n = true) : s.pendingSource ≠ none := by
  intro hnone
  simp only [State.pendingSource, ite_some_eq_none_iff] at hnone
  obtain ⟨hint0, hhtci, htrga, htrgb, htbi, hint1, -⟩ := hnone
  cases n
  exacts [hint0 h, hhtci h, htrga h, htrgb h, htbi h, hint1 h]

theorem takeInterrupt_of_ge (n : Source) (h : 13 ≤ s.sp.toNat) :
    takeInterrupt n s = .fault .stackLevelOutOfRange := by
  rw [takeInterrupt, pushEntry_of_ge _ h]
  rfl

/-- With nothing scheduled, a running CPU and an accepted source, the step is the acceptance (R325). -/
theorem step_of_pending (hsched : s.schedule = []) (hmode : s.mode.running = true) {n : Source}
    (hn : s.pendingSource = some n) : step s = takeInterrupt n s := by
  rw [step, boundary, hsched]
  simp only [cpuTurn, hmode, hn, if_true]

/-- Settles O28: every push and every pop at level 13, 14 or 15 faults. -/
theorem stackRangeFaults : Obligations.StackRangeFaults := by
  refine ⟨fun s i hi hs => ?_, fun s hs => ?_, fun s hsched hmode hs hr => ?_⟩
  · obtain ⟨target, hcall⟩ := exec_call hi
    rw [hcall, callTo_of_ge _ _ hs]
  · have hpop : 13 ≤ (s.sp + 1#4).toNat := by
      simp only [List.mem_cons, List.not_mem_nil, or_false] at hs
      obtain h | h | h := hs <;> rw [h] <;> decide
    rw [exec, execRet, exec, execRti, returnFromInterrupt, popEntry_of_ge hpop]
    exact ⟨rfl, rfl⟩
  · obtain ⟨r, hmem, hreq⟩ := hr
    obtain ⟨n, hn⟩ := acceptable_of_requested hmem hreq
    obtain ⟨m, hm⟩ := Option.ne_none_iff_exists'.1 (pendingSource_ne_none hn)
    rw [step_of_pending hsched ((Mode.running_iff _).2 hmode) hm, takeInterrupt_of_ge m hs]

/-! ### Nested calls -/

/-- `n` more calls fit: SP names level n - 1, and 15 when none fits (R41, R43). -/
def State.FreeLevels (s : State) (n : Nat) : Prop := s.sp.toNat = (n + 15) % 16

theorem exec_call_of_free {n : Nat} (hi : isCall i = true) (hn : n < 13) (hs : s.FreeLevels (n + 1)) :
    ∃ t, exec i s = .next t ∧ t.FreeLevels n := by
  unfold State.FreeLevels at hs
  obtain ⟨target, hcall⟩ := exec_call hi
  refine ⟨_, (hcall s).trans (callTo_of_lt _ _ (by omega)), ?_⟩
  rw [State.FreeLevels, State.setPc_sp, State.setSp_sp, BitVec.toNat_sub, hs]
  simp only [BitVec.toNat_ofNat]
  omega

theorem exec_call_of_full (hi : isCall i = true) (hs : s.FreeLevels 0) :
    exec i s = .fault .stackLevelOutOfRange := by
  obtain ⟨target, hcall⟩ := exec_call hi
  have hge : 13 ≤ s.sp.toNat := by rw [hs]; decide
  rw [hcall, callTo_of_ge _ _ hge]

theorem execAll_calls_fit {calls : List Instr} {n : Nat} (hi : ∀ i ∈ calls, isCall i = true) (hn : n ≤ 13)
    (hs : s.FreeLevels n) (hlen : calls.length ≤ n) :
    ∃ t, execAll calls s = .next t ∧ t.FreeLevels (n - calls.length) := by
  induction calls generalizing s n with
  | nil => exact ⟨s, rfl, hs⟩
  | cons i rest ih =>
    obtain _ | n := n
    · simp at hlen
    · rw [List.length_cons] at hlen ⊢
      obtain ⟨u, hu, hfree⟩ := exec_call_of_free (hi i (.head _)) (by omega) hs
      rw [execAll, hu, Nat.add_sub_add_right]
      exact ih (fun j hj => hi j (.tail _ hj)) (by omega) hfree (by omega)

theorem execAll_calls_overflow {calls : List Instr} {n : Nat} (hi : ∀ i ∈ calls, isCall i = true) (hn : n ≤ 13)
    (hs : s.FreeLevels n) (hlen : calls.length = n + 1) :
    execAll calls s = .fault .stackLevelOutOfRange := by
  induction calls generalizing s n with
  | nil => simp at hlen
  | cons i rest ih =>
    rw [List.length_cons] at hlen
    obtain _ | n := n
    · rw [execAll, exec_call_of_full (hi i (.head _)) hs]
    · obtain ⟨u, hu, hfree⟩ := exec_call_of_free (hi i (.head _)) (by omega) hs
      rw [execAll, hu]
      exact ih (fun j hj => hi j (.tail _ hj)) (by omega) hfree (by omega)

/-- Settles O29: from SP = 12 thirteen levels are free. -/
theorem thirteenNestedCalls : Obligations.ThirteenNestedCalls := by
  intro s calls hsp hi
  have hs : s.FreeLevels 13 := by rw [State.FreeLevels, hsp]; decide
  refine ⟨fun hlen => ?_, execAll_calls_overflow hi le_rfl hs⟩
  obtain ⟨t, ht, hfree⟩ := execAll_calls_fit hi le_rfl hs hlen
  refine ⟨t, ht, hfree.trans ?_⟩
  congr 1
  omega

end Sys2Proof.Machine
end

section
/-! OUTA to the command ports: each register as an equation of the next state, or as a fault. -/

namespace Sys2Proof.Machine

open Sys2Proof.Config

variable {s t u : State}

/-! ### The command fields as numbers -/

theorem fieldHigh_eq_iff (v : Nibble) (k : BitVec 2) : fieldHigh v = k ↔ v.toNat / 4 = k.toNat := by
  revert v k; decide

theorem fieldLow_eq_iff (v : Nibble) (k : BitVec 2) : fieldLow v = k ↔ v.toNat % 4 = k.toNat := by
  revert v k; decide

theorem swwt_eq_zero_iff (v : Nibble) : swwt v = 0#3 ↔ v.getLsbD 2 = false ∧ v.toNat % 4 = 0 := by
  revert v; decide

theorem swwt_fields_of_mem {v : Nibble} (h : v ∈ [0x0#4, 0x8#4]) : v.getLsbD 2 = false ∧ v.toNat % 4 = 0 := by
  revert v; decide

theorem lcdMode_eq_reserved_iff (v : Nibble) : lcdMode v = .reserved ↔ v.toNat / 4 = 2 := by
  revert v; decide

theorem htcMode_eq_stop_iff (v : Nibble) : htcMode v = .stop ↔ v.toNat / 4 = 0 := by
  revert v; decide

theorem somSlow_eq_somTop (o : Options) (v : Nibble) : somSlow o.somUnused v = somTop o v := by
  unfold somTop
  generalize o.somUnused = b
  revert b v; decide

theorem timeBaseRate_eq_reserved_iff (dbl slow : Bool) (v : Nibble) :
    timeBaseRate dbl slow v = .reserved ↔
      v.toNat / 4 = 2 ∨ slow = true ∧ v ∈ [0x4#4, 0x5#4, 0x6#4, 0xC#4] := by
  revert dbl slow v; decide

theorem timerARate_eq_reserved_iff (dbl slow : Bool) (v : Nibble) :
    timerARate dbl slow v = .reserved ↔ slow = true ∧ v.toNat % 4 = 0 := by
  revert dbl slow v; decide

theorem htcRate_eq_reserved_iff (dbl slow : Bool) (v : Nibble) :
    htcRate dbl slow v = .reserved ↔ slow = true ∧ 2 ≤ v.toNat % 4 := by
  revert dbl slow v; decide

/-- A stopped unit may keep any rate (R379). -/
theorem timerA_slowReserved_iff (dbl : Bool) (v : Nibble) :
    (timerMode v != .stop && timerARate dbl true v == .reserved) = true ↔ v ∈ [0x4#4, 0x8#4, 0xC#4] := by
  revert dbl v; decide

theorem htc_slowReserved_iff (dbl : Bool) (v : Nibble) :
    (htcMode v != .stop && htcRate dbl true v == .reserved) = true ↔
      v ∈ [0x6#4, 0x7#4, 0xA#4, 0xB#4, 0xE#4, 0xF#4] := by
  revert dbl v; decide

/-- What SLOW mode forbids, with the codes of P25 that are reserved in every mode (R379). -/
theorem slowReserved_iff (dbl : Bool) (c : Commands) :
    slowReserved dbl c = true ↔ slowForbidden c ∨ c.p25.toNat / 4 = 2 := by
  rw [slowReserved, Bool.or_eq_true, Bool.or_eq_true, timerA_slowReserved_iff, htc_slowReserved_iff, beq_iff_eq,
    timeBaseRate_eq_reserved_iff, slowForbidden]
  tauto

/-! ### Output instructions -/

theorem outputTo_of_ok {p : BitVec 5} {v : Nibble} (h : portOut p v s = .ok u) :
    outputTo p v s = .next { u with sf := true, pc := u.pc + 2#13 } := by
  rw [outputTo, h]; rfl

theorem outputTo_of_error {p : BitVec 5} {v : Nibble} {f : Fault} (h : portOut p v s = .error f) :
    outputTo p v s = .fault f := by
  rw [outputTo, h]; rfl

theorem exec_outa_of_ok {p : BitVec 5} {v : Nibble} (hv : s.acc = v) (h : portOut p v s = .ok u) :
    exec (.outa p) s = .next { u with sf := true, pc := u.pc + 2#13 } := by
  subst hv; exact outputTo_of_ok h

theorem exec_outa_of_error {p : BitVec 5} {v : Nibble} {f : Fault} (hv : s.acc = v) (h : portOut p v s = .error f) :
    exec (.outa p) s = .fault f := by
  subst hv; exact outputTo_of_error h

/-! ### Ports that change the mode -/

section
variable {v : Nibble}

theorem writeP16_stop (h : v.getLsbD 2 = true) :
    writeP16 v s = .ok { s with cmd := { s.cmd with p16 := v }, mode := .stop, lcdPower := false } := by
  rw [writeP16, if_pos h]; rfl

theorem writeP16_plain (h : v.getLsbD 2 = false ∧ v.toNat % 4 = 0) :
    writeP16 v s = .ok { s with cmd := { s.cmd with p16 := v } } := by
  rw [writeP16, if_neg (Bool.not_eq_true _ ▸ h.1), if_pos ((swwt_eq_zero_iff v).2 h)]; rfl

theorem writeP16_reserved (h : v.getLsbD 2 = false) (h0 : v.toNat % 4 ≠ 0) :
    writeP16 v s = .error .reservedCommand := by
  rw [writeP16, if_neg (Bool.not_eq_true _ ▸ h), if_neg fun hw => h0 ((swwt_eq_zero_iff v).1 hw).2]

theorem writeP19_plain (h : v.toNat / 4 = 0) : writeP19 v s = .ok { s with cmd := { s.cmd with p19 := v } } := by
  rw [writeP19, (fieldHigh_eq_iff v 0#2).2 h]; rfl

theorem writeP19_idle (h : v.toNat / 4 = 1) (hm : s.mode = .slow) :
    writeP19 v s = .ok { s with cmd := { s.cmd with p19 := v }, mode := .idle } := by
  rw [writeP19, (fieldHigh_eq_iff v 1#2).2 h]
  exact if_pos hm

theorem writeP19_reserved (h : 2 ≤ v.toNat / 4 ∨ v.toNat / 4 = 1 ∧ s.mode ≠ .slow) :
    writeP19 v s = .error .reservedCommand := by
  obtain h | ⟨h, hm⟩ := h
  · have : v.toNat / 4 = 2 ∨ v.toNat / 4 = 3 := by omega
    obtain h | h := this
    · rw [writeP19, (fieldHigh_eq_iff v 2#2).2 h]; rfl
    · rw [writeP19, (fieldHigh_eq_iff v 3#2).2 h]; rfl
  · rw [writeP19, (fieldHigh_eq_iff v 1#2).2 h]
    exact if_neg hm

theorem writeP22_slow (h : somTop s.opts v = true) (hm : s.mode = .normal) (hr : ¬ slowForbidden s.cmd)
    (h25 : s.cmd.p25.toNat / 4 ≠ 2) :
    writeP22 v s = .ok { s with cmd := { s.cmd with p22 := v }, mode := .slow } := by
  rw [writeP22, somSlow_eq_somTop, h, hm]
  exact if_neg fun hs => ((slowReserved_iff _ _).1 hs).elim hr h25

theorem writeP22_reserved (h : somTop s.opts v = true) (hm : s.mode = .normal) (hr : slowForbidden s.cmd) :
    writeP22 v s = .error .reservedCommand := by
  rw [writeP22, somSlow_eq_somTop, h, hm]
  exact if_pos ((slowReserved_iff _ _).2 (.inl hr))

theorem writeP22_normal (h : somTop s.opts v = false) (hm : s.mode = .slow) :
    writeP22 v s = .ok { s with cmd := { s.cmd with p22 := v }, mode := .normal } := by
  rw [writeP22, somSlow_eq_somTop, h, hm]; rfl

theorem writeP22_plain (h : s.mode ≠ if somTop s.opts v then .normal else .slow) :
    writeP22 v s = .ok { s with cmd := { s.cmd with p22 := v } } := by
  rw [writeP22, somSlow_eq_somTop]
  cases hv : somTop s.opts v <;> cases hm : s.mode <;> simp_all [State.setCmd]

end

/-- Settles O33. -/
theorem modeCommands : Obligations.ModeCommands := by
  intro s v hv
  exact ⟨fun h => exec_outa_of_ok (p := 16#5) hv (writeP16_stop h),
    fun h => exec_outa_of_ok (p := 16#5) hv (writeP16_plain (swwt_fields_of_mem h)),
    fun h hm => exec_outa_of_ok (p := 19#5) hv (writeP19_idle h hm),
    fun h => exec_outa_of_ok (p := 19#5) hv (writeP19_plain h),
    fun h hm hr h25 => exec_outa_of_ok (p := 22#5) hv (writeP22_slow h hm hr h25),
    fun h hm => exec_outa_of_ok (p := 22#5) hv (writeP22_normal h hm),
    fun h => exec_outa_of_ok (p := 22#5) hv (writeP22_plain h)⟩

/-! ### Ports of the devices -/

section
variable {v : Nibble}

/-- CWC reads 1 after every write, the other bits are the nibble's (R59). -/
theorem cwcReturned_getLsbD (b : CwcBit) (v : Nibble) (c : Nat) (hc : c < 4) :
    (cwcReturned b v).getLsbD c = if c = cwcIndex b then true else v.getLsbD c := by
  have key : ∀ b ∈ [CwcBit.bit1, .bit2, .bit3], ∀ (v : Nibble), ∀ c < 4,
      (cwcReturned b v).getLsbD c = if c = cwcIndex b then true else v.getLsbD c := by decide
  exact key b (by cases b <;> simp) v c hc

theorem writeP21_enabled (h : s.opts.wdtEnable = true) :
    writeP21 v s = .ok { s with
      cmd := { s.cmd with p21 := cwcReturned s.opts.cwcBit v },
      wdtCount := if v.getLsbD (cwcIndex s.opts.cwcBit) then s.wdtCount else 0#4 } := by
  rw [writeP21, if_pos h, clearsWdt]
  cases v.getLsbD (cwcIndex s.opts.cwcBit) <;> rfl

theorem writeP21_disabled (h : s.opts.wdtEnable = false) : writeP21 v s = .ok s := by
  rw [writeP21, if_neg (by simp [h])]

theorem writeP25_plain (h : v.toNat / 4 ≠ 2) (hr : ¬ (s.mode = .slow ∧ v ∈ [0x4#4, 0x5#4, 0x6#4, 0xC#4])) :
    writeP25 v s = .ok { s with cmd := { s.cmd with p25 := v } } := by
  rw [writeP25, if_neg]
  · rfl
  · rw [timeBaseRate_eq_reserved_iff, beq_iff_eq]
    exact fun hc => hc.elim h hr

theorem writeP25_reserved (h : v.toNat / 4 = 2 ∨ s.mode = .slow ∧ v ∈ [0x4#4, 0x5#4, 0x6#4, 0xC#4]) :
    writeP25 v s = .error .reservedCommand := by
  rw [writeP25, if_pos]
  rwa [timeBaseRate_eq_reserved_iff, beq_iff_eq]

theorem writeP27_plain (h : v.toNat / 4 ≠ 2) :
    writeP27 v s = .ok { s with
      cmd := { s.cmd with p27 := v }, lcdPower := s.lcdPower || decide (v.toNat / 4 = 3) } := by
  have henabled := lcdMode_eq_enabled_iff v
  have hreserved := mt (lcdMode_eq_reserved_iff v).1 h
  rw [writeP27]
  cases hm : lcdMode v with
  | reserved => exact absurd hm hreserved
  | enabled => simp [henabled.1 hm, State.setCmd, State.setLcdPower]
  | disabled | blanking =>
    have : v.toNat / 4 ≠ 3 := fun h3 => by simp [henabled.2 h3] at hm
    simp [this, State.setCmd]

theorem writeP27_reserved (h : v.toNat / 4 = 2) : writeP27 v s = .error .reservedCommand := by
  rw [writeP27, (lcdMode_eq_reserved_iff v).2 h]

theorem writeP28_plain (h : ¬ (s.mode = .slow ∧ v.toNat % 4 = 0)) :
    writeP28 v s = .ok { s with cmd := { s.cmd with p28 := v } } := by
  rw [writeP28, if_neg]
  · rfl
  · rwa [timerARate_eq_reserved_iff, beq_iff_eq]

theorem writeP28_reserved (hm : s.mode = .slow) (h : v.toNat % 4 = 0) :
    writeP28 v s = .error .reservedCommand := by
  rw [writeP28, if_pos]
  rw [timerARate_eq_reserved_iff, beq_iff_eq]
  exact ⟨hm, h⟩

theorem writeP31_plain (h : ¬ (s.mode = .slow ∧ 2 ≤ v.toNat % 4)) :
    writeP31 v s = .ok { s with
      cmd := { s.cmd with p31 := v },
      htc := { s.htc with
        count := if s.cmd.p31.toNat / 4 = 0 ∧ v.toNat / 4 ≠ 0 then s.htc.preset else s.htc.count } } := by
  rw [writeP31, if_neg]
  · simp only [htcMode_eq_stop_iff, ne_eq]
    split <;> rfl
  · rwa [htcRate_eq_reserved_iff, beq_iff_eq]

theorem writeP31_reserved (hm : s.mode = .slow) (h : 2 ≤ v.toNat % 4) :
    writeP31 v s = .error .reservedCommand := by
  rw [writeP31, if_pos]
  rw [htcRate_eq_reserved_iff, beq_iff_eq]
  exact ⟨hm, h⟩

end

/-- Settles O34. -/
theorem deviceCommands : Obligations.DeviceCommands := by
  intro s v hv
  refine ⟨fun hw n hn => ?_, fun hw => exec_outa_of_ok (p := 21#5) hv (writeP21_disabled hw),
    fun h hr => exec_outa_of_ok (p := 25#5) hv (writeP25_plain h hr),
    fun h => exec_outa_of_ok (p := 27#5) hv (writeP27_plain h),
    fun h => exec_outa_of_ok (p := 28#5) hv (writeP28_plain h),
    exec_outa_of_ok (p := 29#5) hv rfl,
    fun h => exec_outa_of_ok (p := 31#5) hv (writeP31_plain h)⟩
  have hn : n = cwcIndex s.opts.cwcBit := by rw [hn]; rfl
  subst hn
  exact ⟨_, cwcReturned_getLsbD s.opts.cwcBit v, exec_outa_of_ok (p := 21#5) hv (writeP21_enabled hw)⟩

/-! ### Ports without a function -/

theorem portIn_unassigned {p : Nibble} (hp : p ∈ [12#4, 13#4, 15#4]) (s : State) :
    portIn (portOf p) s = .error .unassignedPort := by
  simp only [List.mem_cons, List.not_mem_nil, or_false] at hp
  obtain rfl | rfl | rfl := hp <;> rfl

theorem portOut_unassigned {p : BitVec 5}
    (hp : p ∈ [12#5, 13#5, 15#5, 17#5, 18#5, 20#5, 23#5, 24#5, 26#5, 30#5]) (v : Nibble) (s : State) :
    portOut p v s = .error .unassignedPort := by
  simp only [List.mem_cons, List.not_mem_nil, or_false] at hp
  obtain rfl | rfl | rfl | rfl | rfl | rfl | rfl | rfl | rfl | rfl := hp <;> rfl

theorem portOf_unassigned {p : Nibble} (hp : p ∈ [12#4, 13#4, 15#4]) :
    portOf p ∈ [12#5, 13#5, 15#5, 17#5, 18#5, 20#5, 23#5, 24#5, 26#5, 30#5] := by
  revert p; decide

theorem isSpecialArea_of_isRam {a : DataAddr} (h : IsRam a) : isSpecialArea a = false := by
  unfold IsRam at h
  simp only [isSpecialArea, Bool.and_eq_false_iff, decide_eq_false_iff_not]
  omega

theorem testPort_of_error {p : BitVec 5} {len : Nat} {f : Nibble → Bool} {e : Fault} (h : portIn p s = .error e) :
    testPort p len f s = .fault e := by
  rw [testPort, h]; rfl

theorem updatePort_of_error {p : BitVec 5} {len : Nat} {f : Nibble → Nibble} {e : Fault}
    (h : ∀ v, portOut p v s = .error e) : updatePort p len f s = .fault e := by
  rw [updatePort, h]; rfl

/-- Settles O35. -/
theorem portFaults : Obligations.PortFaults := by
  refine ⟨fun s p hp i hi => ?_, fun s p hp => ⟨?_, fun hram => ?_⟩, fun s v hv => ?_⟩
  · have hin := portIn_unassigned hp s
    have hout (v : Nibble) := portOut_unassigned (portOf_unassigned hp) v s
    simp only [List.mem_cons, List.not_mem_nil, or_false] at hi
    obtain (rfl | rfl) | ⟨b, rfl | rfl | rfl | rfl⟩ | ⟨k, rfl⟩ := hi
    · rw [exec, execIna, hin]; rfl
    · rw [exec, execInm, hin]; rfl
    · exact updatePort_of_error (f := fun v => setBit v b) hout
    · exact updatePort_of_error (f := fun v => clearBit v b) hout
    · exact testPort_of_error (f := fun v => !testBit v b) hin
    · exact testPort_of_error (f := fun v => testBit v b) hin
    · exact outputTo_of_error (hout k)
  · exact outputTo_of_error (portOut_unassigned hp _ s)
  · rw [exec, execOutm, withHl, readData_of_ram s (isSpecialArea_of_isRam hram)]
    exact outputTo_of_error (portOut_unassigned hp _ s)
  · exact ⟨fun h h0 => exec_outa_of_error (p := 16#5) hv (writeP16_reserved h h0),
      fun h => exec_outa_of_error (p := 19#5) hv (writeP19_reserved h),
      fun h hm hr => exec_outa_of_error (p := 22#5) hv (writeP22_reserved h hm hr),
      fun h => exec_outa_of_error (p := 25#5) hv (writeP25_reserved h),
      fun h => exec_outa_of_error (p := 27#5) hv (writeP27_reserved h),
      fun hm h => exec_outa_of_error (p := 28#5) hv (writeP28_reserved hm h),
      fun hm h => exec_outa_of_error (p := 31#5) hv (writeP31_reserved hm h)⟩

end Sys2Proof.Machine
end

section
/-! The invariant: the machine after reset meets it, and every step keeps it. It reads memory and the periphery
only, so an instruction can endanger it by a store or by one write to a port. -/

namespace Sys2Proof.Machine

open Sys2Proof.Config

variable {s t u : State}

/-! ### What the invariant reads -/

/-- The invariant depends on the periphery and on the canonical form of RAM. -/
theorem State.Inv.of_periphery (h : s.Inv) (hp : t.periphery = s.periphery)
    (hr : Memory.wf isRamAddr s.ram = true → Memory.wf isRamAddr t.ram = true) : t.Inv := by
  obtain ⟨hmem, hcmd, hmode, hlatch⟩ := h
  obtain ⟨hram, hrom⟩ : Memory.wf isRamAddr s.ram = true ∧ Memory.wf isRomAddr s.rom = true := by
    simpa [State.memoryOk] using hmem
  have hrom' : t.rom = s.rom := congrArg Periphery.rom hp
  have hcmd' : t.cmd = s.cmd := congrArg Periphery.cmd hp
  have hmode' : t.mode = s.mode := congrArg Periphery.mode hp
  have hpower' : t.lcdPower = s.lcdPower := congrArg Periphery.lcdPower hp
  have hopts' : t.opts = s.opts := congrArg Periphery.opts hp
  have hlatch' : t.latch = s.latch := congrArg Periphery.latch hp
  refine ⟨?_, hcmd' ▸ hcmd, ?_, ?_⟩
  · rw [State.memoryOk, hr hram, hrom', hrom]; rfl
  · rwa [State.modeOk, hmode', hopts', hcmd', hpower']
  · rwa [State.latchOk, hlatch', hopts']

theorem State.Inv.commands (h : s.Inv) : commandsOk s.cmd = true := h.2.1

theorem State.Inv.mode (h : s.Inv) : s.modeOk = true := h.2.2.1

theorem State.Inv.latches (h : s.Inv) : s.latchOk = true := h.2.2.2

/-! ### Reset -/

/-- Settles O50. -/
theorem resetTable : Obligations.ResetTable :=
  ⟨rfl, rfl, rfl, rfl, rfl, rfl, rfl, rfl, rfl, rfl, by decide⟩

/-- Settles O58. -/
theorem resetMeetsTheInvariant : Obligations.ResetMeetsTheInvariant :=
  ⟨rfl, rfl, rfl, rfl⟩

/-- The reset value of P1 is 1 in the bits without a pin (R52, R53). -/
theorem p1Initial_or_pinMask (o : Options) : p1Initial o ||| pinMask o .p1 = 0xF#4 := by
  change p1Initial o ||| 0x3#4 = 0xF#4
  unfold p1Initial
  split <;> decide

theorem allOnes_or (m : Nibble) : 0xF#4 ||| m = 0xF#4 := by
  revert m; decide

/-- A reset meets the invariant from every state with a canonical ROM. -/
theorem resetChip_inv (h : s.Inv) : (resetChip s).Inv := by
  obtain ⟨hmem, -⟩ := h
  have hrom : Memory.wf isRomAddr s.rom = true := (Bool.and_eq_true_iff.1 hmem).2
  refine ⟨?_, resetMeetsTheInvariant.commands, rfl, ?_⟩
  · simp only [State.memoryOk, resetChip, freeRam_wf, hrom, Bool.and_self]
  · simp only [State.latchOk, resetChip, p1Initial_or_pinMask, allOnes_or, beq_self_eq_true, Bool.and_self]

/-! ### Outputs -/

/-- A write through the pin mask keeps the bits without a pin (R52). -/
theorem merge_or_mask {m v w : Nibble} (h : w ||| m = 0xF#4) : merge m v w ||| m = 0xF#4 := by
  revert m v w; decide

/-- The clauses of `commandsOk`, by register. -/
theorem commandsOk_iff (c : Commands) :
    commandsOk c = true ↔
      (c.p16.getLsbD 2 = true ∨ swwt c.p16 = 0#3) ∧ (fieldHigh c.p19 = 0#2 ∨ fieldHigh c.p19 = 1#2) ∧
        fieldHigh c.p25 ≠ 2#2 ∧ lcdMode c.p27 ≠ .reserved := by
  simp only [commandsOk, Bool.and_eq_true, Bool.or_eq_true, beq_iff_eq, bne_iff_ne, and_assoc]

/-- No unit breaks the rule for SLOW mode, by unit (R379). -/
theorem slowReserved_eq_false_iff (dbl : Bool) (c : Commands) :
    slowReserved dbl c = false ↔
      (timerMode c.p28 = .stop ∨ timerARate dbl true c.p28 ≠ .reserved) ∧
        (htcMode c.p31 = .stop ∨ htcRate dbl true c.p31 ≠ .reserved) ∧
          timeBaseRate dbl true c.p25 ≠ .reserved := by
  simp only [slowReserved, Bool.or_eq_false_iff, Bool.and_eq_false_iff, bne_eq_false_iff_eq, beq_eq_false_iff_ne,
    and_assoc]

/-- While the CPU runs, the mode asks for something in SLOW mode only. -/
theorem modeOk_iff_of_running (hr : s.mode.running = true) :
    s.modeOk = true ↔ (s.mode = .slow → slowReserved s.opts.freqDouble s.cmd = false) := by
  unfold State.modeOk
  cases hm : s.mode
  case normal | slow => simp
  case idle | stop => rw [hm] at hr; cases hr

/-- The fields that no latch and no memory cell belongs to need `commandsOk` and `modeOk` only. -/
theorem State.Inv.of_commands (h : s.Inv) (hu : u = { s with
      cmd := u.cmd, htc := u.htc, mode := u.mode, lcdPower := u.lcdPower, wdtCount := u.wdtCount })
    (hcmd : commandsOk u.cmd = true) (hmode : u.modeOk = true) : u.Inv := by
  obtain ⟨hmem, -, -, hlatch⟩ := h
  refine ⟨?_, hcmd, hmode, ?_⟩
  · rw [hu]; exact hmem
  · rw [hu]; exact hlatch

/-- A write that leaves the mode alone, while the CPU runs. -/
theorem State.Inv.of_commands_running (h : s.Inv) (hr : s.mode.running = true) (hu : u = { s with
      cmd := u.cmd, htc := u.htc, lcdPower := u.lcdPower, wdtCount := u.wdtCount })
    (hcmd : commandsOk u.cmd = true)
    (hslow : s.mode = .slow → slowReserved s.opts.freqDouble s.cmd = false →
      slowReserved s.opts.freqDouble u.cmd = false) : u.Inv := by
  have hmode' : u.mode = s.mode := by rw [hu]
  have hopts' : u.opts = s.opts := by rw [hu]
  refine h.of_commands (by rw [hu]) hcmd ?_
  rw [modeOk_iff_of_running (hmode' ▸ hr), hmode', hopts']
  exact fun hs => hslow hs ((modeOk_iff_of_running hr).1 h.mode hs)

section
variable {v : Nibble}

theorem writeP16_inv (h : s.Inv) (hr : s.mode.running = true) (hw : writeP16 v s = .ok u) : u.Inv := by
  obtain ⟨-, h19, h25, h27⟩ := (commandsOk_iff _).1 h.commands
  obtain ⟨hv, rfl⟩ | ⟨-, hv, rfl⟩ := writeP16_eq_ok hw
  · refine h.of_commands rfl ((commandsOk_iff _).2 ⟨.inl hv, h19, h25, h27⟩) ?_
    exact Bool.and_eq_true_iff.2 ⟨hv, rfl⟩
  · exact h.of_commands_running hr rfl ((commandsOk_iff _).2 ⟨.inr hv, h19, h25, h27⟩) fun _ => id

theorem writeP19_inv (h : s.Inv) (hr : s.mode.running = true) (hw : writeP19 v s = .ok u) : u.Inv := by
  obtain ⟨h16, -, h25, h27⟩ := (commandsOk_iff _).1 h.commands
  obtain ⟨hv, rfl⟩ | ⟨hv, hm, rfl⟩ := writeP19_eq_ok hw
  · exact h.of_commands_running hr rfl ((commandsOk_iff _).2 ⟨h16, .inl hv, h25, h27⟩) fun _ => id
  · refine h.of_commands rfl ((commandsOk_iff _).2 ⟨h16, .inr hv, h25, h27⟩) ?_
    have hslow := (modeOk_iff_of_running hr).1 h.mode hm
    exact Bool.and_eq_true_iff.2 ⟨Bool.not_eq_true' _ ▸ hslow, beq_iff_eq.2 hv⟩

theorem writeP21_inv (h : s.Inv) (hr : s.mode.running = true) (hw : writeP21 v s = .ok u) : u.Inv := by
  obtain ⟨-, hu⟩ | ⟨-, rfl⟩ := writeP21_eq_ok hw
  · rw [hu]
    exact h.of_commands_running hr rfl h.commands fun _ => id
  · exact h

theorem writeP22_inv (h : s.Inv) (hr : s.mode.running = true) (hw : writeP22 v s = .ok u) : u.Inv := by
  obtain ⟨-, -, hslow, rfl⟩ | ⟨-, -, rfl⟩ | rfl := writeP22_eq_ok hw
  · exact h.of_commands rfl h.commands (Bool.not_eq_true' _ ▸ hslow)
  · exact h.of_commands rfl h.commands rfl
  · exact h.of_commands_running hr rfl h.commands fun _ => id

theorem writeP25_inv (h : s.Inv) (hr : s.mode.running = true) (hw : writeP25 v s = .ok u) : u.Inv := by
  obtain ⟨h16, h19, -, h27⟩ := (commandsOk_iff _).1 h.commands
  obtain ⟨hv, rfl⟩ := writeP25_eq_ok hw
  have h25 : fieldHigh v ≠ 2#2 := fun h2 =>
    hv ((timeBaseRate_eq_reserved_iff _ _ v).2 (.inl ((fieldHigh_eq_iff v 2#2).1 h2)))
  refine h.of_commands_running hr rfl ((commandsOk_iff _).2 ⟨h16, h19, h25, h27⟩) fun hm hs => ?_
  obtain ⟨h28, h31, -⟩ := (slowReserved_eq_false_iff _ _).1 hs
  rw [hm] at hv
  exact (slowReserved_eq_false_iff _ _).2 ⟨h28, h31, hv⟩

theorem writeP27_inv (h : s.Inv) (hr : s.mode.running = true) (hw : writeP27 v s = .ok u) : u.Inv := by
  obtain ⟨h16, h19, h25, -⟩ := (commandsOk_iff _).1 h.commands
  have ok (hv : lcdMode v ≠ .reserved) : commandsOk { s.cmd with p27 := v } = true :=
    (commandsOk_iff _).2 ⟨h16, h19, h25, hv⟩
  obtain ⟨hv, rfl⟩ | ⟨hv | hv, rfl⟩ := writeP27_eq_ok hw
  all_goals exact h.of_commands_running hr rfl (ok (by simp [hv])) fun _ => id

theorem writeP28_inv (h : s.Inv) (hr : s.mode.running = true) (hw : writeP28 v s = .ok u) : u.Inv := by
  obtain ⟨hv, rfl⟩ := writeP28_eq_ok hw
  refine h.of_commands_running hr rfl h.commands fun hm hs => ?_
  obtain ⟨-, h31, h25⟩ := (slowReserved_eq_false_iff _ _).1 hs
  rw [hm] at hv
  exact (slowReserved_eq_false_iff _ _).2 ⟨.inr hv, h31, h25⟩

theorem writeP29_inv (h : s.Inv) (hr : s.mode.running = true) (hw : writeP29 v s = .ok u) : u.Inv := by
  obtain rfl := Except.ok.inj hw
  exact h.of_commands_running hr rfl h.commands fun _ => id

theorem writeP31_inv (h : s.Inv) (hr : s.mode.running = true) (hw : writeP31 v s = .ok u) : u.Inv := by
  obtain ⟨hv, hu⟩ := writeP31_eq_ok hw
  rw [hu]
  refine h.of_commands_running hr rfl h.commands fun hm hs => ?_
  obtain ⟨h28, -, h25⟩ := (slowReserved_eq_false_iff _ _).1 hs
  rw [hm] at hv
  exact (slowReserved_eq_false_iff _ _).2 ⟨h28, .inr hv, h25⟩

end

/-- The clauses of `latchOk`, by port. -/
theorem latchOk_iff (s : State) :
    s.latchOk = true ↔
      s.latch.p1 ||| pinMask s.opts .p1 = 0xF#4 ∧ s.latch.p3 ||| pinMask s.opts .p3 = 0xF#4 ∧
        s.latch.p6 ||| pinMask s.opts .p6 = 0xF#4 ∧ s.latch.p7 ||| pinMask s.opts .p7 = 0xF#4 ∧
          s.latch.p8 ||| pinMask s.opts .p8 = 0xF#4 := by
  simp only [State.latchOk, Bool.and_eq_true, beq_iff_eq, and_assoc]

/-- A write of a latch needs the clause of its port only. -/
theorem State.Inv.setLatch (h : s.Inv) {l : Latches} (hl : (s.setLatch l).latchOk = true) : (s.setLatch l).Inv := by
  obtain ⟨hmem, hcmd, hmode, -⟩ := h
  exact ⟨hmem, hcmd, hmode, hl⟩

/-- An output while the CPU runs keeps the invariant. -/
theorem portOut_inv {p : BitVec 5} {v : Nibble} (h : s.Inv) (hr : s.mode.running = true)
    (hout : portOut p v s = .ok u) : u.Inv := by
  obtain ⟨hp1, hp3, hp6, hp7, hp8⟩ := (latchOk_iff s).1 h.latches
  unfold portOut at hout
  split at hout
  case h_1 | h_3 => obtain rfl := Except.ok.inj hout; exact h
  case h_2 =>
    obtain rfl := Except.ok.inj hout
    exact h.setLatch ((latchOk_iff _).2 ⟨merge_or_mask hp1, hp3, hp6, hp7, hp8⟩)
  case h_4 =>
    obtain rfl := Except.ok.inj hout
    exact h.setLatch ((latchOk_iff _).2 ⟨hp1, merge_or_mask hp3, hp6, hp7, hp8⟩)
  case h_5 | h_6 | h_10 =>
    obtain rfl := Except.ok.inj hout
    exact h.setLatch ((latchOk_iff _).2 ⟨hp1, hp3, hp6, hp7, hp8⟩)
  case h_7 =>
    obtain rfl := Except.ok.inj hout
    exact h.setLatch ((latchOk_iff _).2 ⟨hp1, hp3, merge_or_mask hp6, hp7, hp8⟩)
  case h_8 =>
    obtain rfl := Except.ok.inj hout
    exact h.setLatch ((latchOk_iff _).2 ⟨hp1, hp3, hp6, merge_or_mask hp7, hp8⟩)
  case h_9 =>
    obtain rfl := Except.ok.inj hout
    exact h.setLatch ((latchOk_iff _).2 ⟨hp1, hp3, hp6, hp7, merge_or_mask hp8⟩)
  case h_11 | h_12 | h_13 => obtain rfl := Except.ok.inj hout; exact h
  case h_14 => exact writeP16_inv h hr hout
  case h_15 => exact writeP19_inv h hr hout
  case h_16 => exact writeP21_inv h hr hout
  case h_17 => exact writeP22_inv h hr hout
  case h_18 => exact writeP25_inv h hr hout
  case h_19 => exact writeP27_inv h hr hout
  case h_20 => exact writeP28_inv h hr hout
  case h_21 => exact writeP29_inv h hr hout
  case h_22 => exact writeP31_inv h hr hout
  case h_23 => cases hout

/-! ### The CPU's turn -/

theorem exec_inv {i : Instr} (h : s.Inv) (hr : s.mode.running = true) (hx : exec i s = .next t) : t.Inv := by
  have hram := (exec_effect hx).ram
  obtain hkept | ⟨p, v, u, hout, hp⟩ := exec_periphery hx
  · exact h.of_periphery hkept hram
  · have hu : u.ram = s.ram := by rw [portOut_frame hout]
    exact (portOut_inv h hr hout).of_periphery hp (hu ▸ hram)

theorem cpuTurn_inv (h : s.Inv) (hx : cpuTurn s = .next t) : t.Inv := by
  obtain ⟨-, rfl⟩ | ⟨-, n, -, hn⟩ | ⟨hr, -, i, -, hi⟩ := cpuTurn_eq_next hx
  · exact h
  · obtain ⟨-, rfl⟩ := takeInterrupt_eq_next hn
    exact h
  · exact exec_inv h hr hi

/-! ### The other agents -/

/-- Leaving IDLE for SLOW needs what IDLE already asked for; NORMAL asks for nothing. -/
theorem releaseByPin_inv (h : s.Inv) : (releaseByPin s).Inv := by
  obtain ⟨hmem, hcmd, hmode, hlatch⟩ := id h
  obtain ⟨hm, hrel⟩ | ⟨hm, hrel⟩ | ⟨-, hrel⟩ := releaseByPin_cases s <;> rw [hrel]
  · rw [State.modeOk, hm] at hmode
    exact ⟨hmem, hcmd, (Bool.and_eq_true_iff.1 hmode).1, hlatch⟩
  · exact ⟨hmem, hcmd, rfl, hlatch⟩
  · exact h

theorem releaseByTimer_inv (h : s.Inv) : (releaseByTimer s).Inv := by
  obtain ⟨hm, hrel⟩ | hrel := releaseByTimer_cases s <;> rw [hrel]
  · obtain ⟨hmem, hcmd, hmode, hlatch⟩ := h
    rw [State.modeOk, hm] at hmode
    exact ⟨hmem, hcmd, (Bool.and_eq_true_iff.1 hmode).1, hlatch⟩
  · exact h

theorem changePins_inv (p : PinPort) (level : Nibble) (h : s.Inv) : (changePins p level s).Inv := by
  have edges (old new : Nibble) (allowed : Bool) {u : State} (hu : u.Inv) :
      (externalRequest p old new allowed (eventCount p old new u)).Inv := by
    rw [externalRequest_frame, eventCount_frame]
    exact hu
  have hpins : (s.setPins (pinsPut s.pins p level)).Inv := h
  unfold changePins
  dsimp only
  split
  · exact releaseByPin_inv (edges _ _ _ hpins)
  · exact edges _ _ _ hpins

theorem clockWdt_inv (h : s.Inv) : (clockWdt s).Inv := by
  obtain hw | hw | hw := clockWdt_cases s <;> rw [hw]
  · exact resetChip_inv h
  · exact h
  · exact h

/-- Every agent beside the CPU keeps the invariant: timers and requests do not touch what it reads. -/
theorem deviceAction_inv (e : Event) (h : s.Inv) : (deviceAction e s).Inv := by
  cases e with
  | cpu | oscillator => exact h
  | pins p level => exact changePins_inv p level h
  | int0 | int1 => rw [deviceAction]; split <;> exact h
  | timerAPulse => rw [deviceAction, pulseA_frame]; exact h
  | timerBPulse => rw [deviceAction, pulseB_frame]; exact h
  | htcClock => rw [deviceAction, clockHtc_frame]; exact h
  | timeBaseTick => rw [deviceAction, tickTimeBase_frame]; exact h
  | wakePin =>
    rw [deviceAction]
    split
    · exact releaseByPin_inv h
    · exact h
  | wakeTimer => exact releaseByTimer_inv h
  | wdtClock => exact clockWdt_inv h
  | wdtTimeUp =>
    rw [deviceAction]
    split
    · exact resetChip_inv h
    · exact h
  | resetPin => exact resetChip_inv h

/-- Settles O59: the CPU by `exec_inv`, the other agents by `deviceAction_inv`. -/
theorem stepKeepsTheInvariant : Obligations.StepKeepsTheInvariant := by
  intro s t h hstep
  obtain ⟨-, hx⟩ | ⟨rest, -, hx⟩ | ⟨e, rest, -, -, rfl⟩ := step_eq_next hstep
  · exact cpuTurn_inv h hx
  · exact cpuTurn_inv (s := s.setSchedule rest) h hx
  · exact deviceAction_inv e (s := s.setSchedule rest) h

end Sys2Proof.Machine
end

section
/-! The decoder undoes the encoder: the three bytes that a fetch looks at decode to the instruction whose encoding
they begin with, and so every well-formed instruction is `Coded` as its own bytes (R101, R103). -/

namespace Sys2Proof.Machine

open Sys2Proof.Config

/-! ### Fields of the encoded bytes -/

@[simp] theorem hi_byteOf (h l : Nibble) : hi (byteOf h l) = h := BitVec.extractLsb'_append_eq_left

@[simp] theorem lo_byteOf (h l : Nibble) : lo (byteOf h l) = l := BitVec.extractLsb'_append_eq_right

@[simp] theorem hi2_append (c : BitVec 2) (r : BitVec 6) : hi2 (c ++ r) = c := BitVec.extractLsb'_append_eq_left

theorem low6_append (c : BitVec 2) (r : BitVec 6) : (c ++ r).extractLsb' 0 6 = r := BitVec.extractLsb'_append_eq_right

@[simp] theorem hi2_fields (c b : BitVec 2) (y : Nibble) : hi2 (c ++ b ++ y) = c := by
  revert c b y; decide

@[simp] theorem mid2_fields (c b : BitVec 2) (y : Nibble) : mid2 (c ++ b ++ y) = b := by
  revert c b y; decide

@[simp] theorem lo_fields (c b : BitVec 2) (y : Nibble) : lo (c ++ b ++ y) = y :=
  BitVec.extractLsb'_append_eq_right

@[simp] theorem addr12_cut (a : BitVec 12) : a.extractLsb' 8 4 ++ a.extractLsb' 0 8 = a := by
  rw [BitVec.extractLsb'_append_extractLsb'_eq_extractLsb' (by rfl), BitVec.extractLsb'_eq_self]

@[simp] theorem addr11_cut (a : BitVec 11) : a.extractLsb' 8 3 ++ a.extractLsb' 0 8 = a := by
  rw [BitVec.extractLsb'_append_extractLsb'_eq_extractLsb' (by rfl), BitVec.extractLsb'_eq_self]

/-! ### Groups of the opcode map -/

@[simp] theorem decodePair_pair (mk : BitVec 6 → Instr) (x : BitVec 6) : decodePair mk (x ++ 0#2) = .ok (mk x) := by
  rw [decodePair, lo2, BitVec.extractLsb'_append_eq_right, if_pos rfl, BitVec.extractLsb'_append_eq_left]

@[simp] theorem decodeLongBranch_cut (mk : BitVec 12 → Instr) (a : BitVec 12) :
    decodeLongBranch mk (byteOf 0xC#4 (a.extractLsb' 8 4)) (a.extractLsb' 0 8) = .ok (mk a) := by
  rw [decodeLongBranch, hi_byteOf, if_pos rfl, lo_byteOf, addr12_cut]

theorem decodeLda_of_wf {x : Byte} (h : namesSpecial x = false) : decodeLda x = .ok (.lda x) := by
  unfold decodeLda
  split
  case h_11 => rfl
  all_goals cases h

theorem decodeSta_of_wf {x : Byte} (h : namesSpecial x = false) : decodeSta x = .ok (.sta x) := by
  unfold decodeSta
  split
  case h_11 => rfl
  all_goals cases h

section
variable (b1 b2 : Byte)

theorem decode_std : decode 0x48#8 b1 b2 = .ok (.std (hi b1) (lo b1)) := rfl
theorem decode_add : decode 0x49#8 b1 b2 = .ok (.add (hi b1) (lo b1)) := rfl
theorem decode_out : decode 0x4A#8 b1 b2 = .ok (.out (hi b1) (lo b1)) := rfl
theorem decode_cmp : decode 0x4B#8 b1 b2 = .ok (.cmp (hi b1) (lo b1)) := rfl
theorem decode_latch : decode 0x63#8 b1 b2 = decodeLatch b1 := rfl
theorem decode_zeroPageBit : decode 0x6C#8 b1 b2 = decodeZeroPageBit b1 := rfl
theorem decode_portBit : decode 0x6D#8 b1 b2 = decodePortBit b1 := rfl
theorem decode_immediate : decode 0x6E#8 b1 b2 = decodeImmediate b1 := rfl
theorem decode_port : decode 0x6F#8 b1 b2 = decodePort b1 := rfl

end

/-- 6Fh with a port number of five bits: the number's top bit is the low bit of the second byte's upper half (R105). -/
theorem decodePort_of_port5 (p : BitVec 5) :
    decodePort (0#3 ++ p) = .ok (.outa p) ∧ decodePort (4#3 ++ p) = .ok (.outm p) := by
  revert p; decide

/-- 00h to 3Fh are SBR (R103). -/
theorem decode_sbr (a : BitVec 6) (b1 b2 : Byte) : decode (0#2 ++ a) b1 b2 = .ok (.sbr a) := by
  have hhi : hi (0#2 ++ a) ∈ [0#4, 1#4, 2#4, 3#4] := by revert a; decide
  have ha : (0#2 ++ a).extractLsb' 0 6 = a := BitVec.extractLsb'_append_eq_right
  simp only [List.mem_cons, List.not_mem_nil, or_false] at hhi
  obtain h | h | h | h := hhi
  all_goals rw [decode, h, ha]; rfl

/-- 40h to 47h are LCALL (R103). -/
theorem decode_lcall (a : BitVec 11) (b2 : Byte) :
    decode (0b01000#5 ++ a.extractLsb' 8 3) (a.extractLsb' 0 8) b2 = .ok (.lcall a) := by
  have ha := addr11_cut a
  generalize a.extractLsb' 8 3 = c at ha ⊢
  have hhi : ∀ c : BitVec 3, hi (0b01000#5 ++ c) = 4#4 := by decide
  have hlo : ∀ c : BitVec 3, lo (0b01000#5 ++ c) ∈ [0#4, 1#4, 2#4, 3#4, 4#4, 5#4, 6#4, 7#4] := by decide
  have hc : (0b01000#5 ++ c).extractLsb' 0 3 = c := BitVec.extractLsb'_append_eq_right
  have hlo := hlo c
  simp only [List.mem_cons, List.not_mem_nil, or_false] at hlo
  obtain h | h | h | h | h | h | h | h := hlo
  all_goals rw [decode, hhi]; simp only [decode4, h, hc, ha]; rfl

/-- F0h to FFh are the four instructions with a bit number in the first byte (R101). -/
theorem decode_of_hi_F {b0 b1 b2 : Byte} {i : Instr} (h : hi b0 = 0xF#4) (hF : decodeF b0 = i) :
    decode b0 b1 b2 = .ok i := by
  rw [decode, h, ← hF]
  rfl

/-! ### All instructions -/

/-- The fetch reads back the instruction whose encoding stands at PC. -/
theorem decode_encode_append (i : Instr) (hw : i.wf = true) (rest : List Byte) :
    decode ((i.encode ++ rest).getD 0 0) ((i.encode ++ rest).getD 1 0) ((i.encode ++ rest).getD 2 0) = .ok i := by
  cases i
  all_goals simp only [Instr.encode, List.cons_append, List.nil_append, List.getD_cons_zero, List.getD_cons_succ]
  case lda x => exact decodeLda_of_wf (by simpa [Instr.wf] using hw)
  case sta x => exact decodeSta_of_wf (by simpa [Instr.wf] using hw)
  case sbr a => exact decode_sbr a _ _
  case lcall a => exact decode_lcall a _
  case clm b | sem b | tfa b | tfm b => exact decode_of_hi_F (by revert b; decide) (by revert b; decide)
  case ldh | ldia | ldl | stdmi | cmpia | scall | lbr => simp [decode]
  case ldhl x => exact decodePair_pair .ldhl x
  case exhl x => exact decodePair_pair .exhl x
  case slbrHigh a => exact decodeLongBranch_cut .slbrHigh a
  case slbrLow a => exact decodeLongBranch_cut .slbrLow a
  case std => simp [decode_std]
  case add => simp [decode_add]
  case out => simp [decode_out]
  case cmp => simp [decode_cmp]
  case adda | addh | addl | addm | suba | subm | anda | andm | ora | orm | cmph | cmpl =>
    simp [decode_immediate, decodeImmediate]
  case clp | sep | tfp | ttp => simp [decode_portBit, decodePortBit]
  case clr | set | tf | tt => simp [decode_zeroPageBit, decodeZeroPageBit]
  case ina | inm => simp [decode_port, decodePort]
  case outa p => exact (decodePort_of_port5 p).1
  case outm p => exact (decodePort_of_port5 p).2
  case cil | dicil | eicil => simp [decode_latch, decodeLatch, low6_append]
  all_goals rfl

/-- The first byte tells the length (R100). -/
theorem lengthOf_encode (i : Instr) : lengthOf (i.encode.headD 0) = i.length := by
  cases i
  all_goals simp only [Instr.encode, List.headD_cons, Instr.length]
  case ldh k | ldia k | ldl k | stdmi k | cmpia k | scall k => revert k; decide
  case clm b | sem b | tfa b | tfm b => revert b; decide
  case sbr a => revert a; decide
  case lbr a => generalize a.extractLsb' 8 4 = c; revert c; decide
  case lcall a => generalize a.extractLsb' 8 3 = c; revert c; decide
  all_goals rfl

/-- A well-formed instruction is coded as its own bytes. -/
theorem coded_of_wf {i : Instr} (hw : i.wf = true) : Coded i.encode i.cycles i := by
  refine ⟨rfl, rfl, fun rest => ?_⟩
  have hdec := decode_encode_append i hw rest
  have hlen := (lengthOf_encode i).trans (encode_length i).symm
  obtain ⟨b, bs, hb⟩ : ∃ b bs, i.encode = b :: bs := by cases i <;> exact ⟨_, _, rfl⟩
  rw [hb] at hdec hlen ⊢
  have hlen : lengthOf b = bs.length + 1 := hlen
  rw [List.cons_append, List.getD_cons_zero] at hdec
  rw [List.cons_append, decodeBytes, if_neg (by simp [hlen]), hdec, hlen]
  simp

/-! ### The step -/

section
variable {s : State} {i : Instr}

/-- A running CPU with nothing pending runs the instruction at PC (R325, R370). -/
theorem cpuTurn_of_ready (hmode : s.mode.running = true) (hpending : s.pendingSource = none) :
    cpuTurn s = runInstruction s := by
  rw [cpuTurn, if_pos hmode, hpending]

/-- With nothing scheduled the step is the CPU's turn. -/
theorem step_of_unscheduled (h : s.schedule = []) : step s = cpuTurn s := by
  rw [step, boundary, h]

theorem runInstruction_of_fetch (h : s.fetch = .ok i) : runInstruction s = exec i s := by
  rw [runInstruction, h]

theorem runInstruction_of_error {e : DecodeError} (h : s.fetch = .error e) :
    runInstruction s = .fault .unassignedEncoding := by
  rw [runInstruction, h]

theorem fetch_of_encode (hw : i.wf = true)
    (h : i.encode = [s.romByte s.pc, s.romByte (s.pc + 1#13), s.romByte (s.pc + 2#13)].take i.encode.length) :
    s.fetch = .ok i := by
  have hbytes := List.take_append_drop i.encode.length
    [s.romByte s.pc, s.romByte (s.pc + 1#13), s.romByte (s.pc + 2#13)]
  rw [← h] at hbytes
  have hdec := decode_encode_append i hw
    ([s.romByte s.pc, s.romByte (s.pc + 1#13), s.romByte (s.pc + 2#13)].drop i.encode.length)
  rw [hbytes] at hdec
  exact hdec

end

/-- Settles O39: the fetch reads the instruction back, and the turn runs what the fetch answers. -/
theorem stepRunsTheDecodedInstruction : Obligations.StepRunsTheDecodedInstruction := by
  refine ⟨fun s i ⟨hsched, hmode, hpending⟩ hw henc => ?_, fun s e ⟨hsched, hmode, hpending⟩ herr => ?_⟩
  · have hfetch := fetch_of_encode hw henc
    refine ⟨?_, fun rest => ?_⟩
    · rw [step_of_unscheduled hsched, cpuTurn_of_ready hmode hpending, runInstruction_of_fetch hfetch]
    · exact (cpuTurn_of_ready (s := { s with schedule := rest }) hmode hpending).trans
        (runInstruction_of_fetch hfetch)
  · rw [step_of_unscheduled hsched, cpuTurn_of_ready hmode hpending, runInstruction_of_error herr]

end Sys2Proof.Machine
end

section
/-! Addresses: the three forms as numbers, the ROM table that DP points into, and the faults of the bank-0 addresses
where there is no RAM. -/

namespace Sys2Proof.Machine

open Sys2Proof.Config

variable {s t : State}

/-! ### Addresses as numbers -/

/-- The upper part of a concatenation counts in units of the lower part's range. -/
theorem toNat_append_eq {m n : Nat} (x : BitVec m) (y : BitVec n) :
    (x ++ y).toNat = 2 ^ n * x.toNat + y.toNat := by
  rw [BitVec.toNat_append, Nat.mul_comm, ← Nat.shiftLeft_eq, Nat.shiftLeft_add_eq_or_of_lt y.isLt]

/-- Settles O10. -/
theorem effectiveAddresses : Obligations.EffectiveAddresses := by
  intro s x y
  refine ⟨?_, ?_, ?_⟩
  · rw [State.eaHl, toNat_append_eq, toNat_append_eq, BitVec.toNat_ofBool, State.bank]
    omega
  · rw [State.eaDir, toNat_append_eq, BitVec.toNat_ofBool, State.bank]
    rfl
  · rw [eaZp, toNat_append_eq]
    simp

/-! ### The table in ROM -/

/-- DP selects a byte of the upper half of ROM (R73). -/
theorem tableAddr_toNat (s : State) : s.tableAddr.toNat = 0x1000 + s.dp.toNat := by
  rw [State.tableAddr, toNat_append_eq]
  simp

theorem low_nibble_eq (b : Byte) :
    b.extractLsb' 0 4 = BitVec.ofNat 4 (b.toNat % 16) ∧
      isZero (b.extractLsb' 0 4) = decide (b.toNat % 16 = 0) := by
  revert b; decide

theorem high_nibble_eq (b : Byte) :
    b.extractLsb' 4 4 = BitVec.ofNat 4 (b.toNat / 16) ∧
      isZero (b.extractLsb' 4 4) = decide (b.toNat / 16 = 0) := by
  revert b; decide

/-- Settles O9: both instructions load a nibble of one byte, LDAXI after DP has stepped. -/
theorem tableLookup : Obligations.TableLookup := by
  intro s b hb
  have hrom : s.romByte s.tableAddr = b := by rw [State.romByte, tableAddr_toNat, hb]
  obtain ⟨hlow, hlowz⟩ := low_nibble_eq b
  obtain ⟨hhigh, hhighz⟩ := high_nibble_eq b
  refine ⟨⟨⟨rfl, rfl, fun _ => rfl⟩, ?_⟩, ⟨rfl, rfl, fun _ => rfl⟩, ?_⟩
  · rw [exec, execLdax, hrom, ← hlow, ← hlowz]
    rfl
  · rw [exec, execLdaxi, hrom, ← hhigh, ← hhighz]
    rfl

/-! ### The special area -/

theorem isSpecialArea_of_inSpecialArea {a : DataAddr} (h : InSpecialArea a) : isSpecialArea a = true := by
  obtain ⟨hlo, hhi⟩ := h
  rw [isSpecialArea, decide_eq_true hlo, decide_eq_true hhi]
  rfl

section
variable {a : DataAddr}

theorem onOk_readData_of_special (k : Nibble → Res) (h : isSpecialArea a = true) :
    onOk (readData a s) k = .fault .bank0SpecialArea := by
  rw [readData_of_special s h, onOk_error]

theorem onOk_writeData_of_special (v : Nibble) (k : State → Res) (h : isSpecialArea a = true) :
    onOk (writeData a v s) k = .fault .bank0SpecialArea := by
  rw [writeData_of_special v s h, onOk_error]

end

/-- LDA x and STA x fault where no special register answers (R78, R79). -/
theorem direct_of_special {x : Byte} (h : isSpecialArea (s.eaDir x) = true) (hx : specialAt (s.eaDir x) = none) :
    exec (.lda x) s = .fault .bank0SpecialArea ∧ exec (.sta x) s = .fault .bank0SpecialArea := by
  constructor
  · rw [exec, execLda, loadDirect, readDirect, if_pos h, hx]
    rfl
  · rw [exec, execSta, storeDirect, writeDirect, if_pos h, hx]
    rfl

/-- No register is listed at F7h and FBh (R39). -/
theorem specialAt_unlisted {x : Byte} (hx : x ∈ [0xF7#8, 0xFB#8]) : specialAt (s.eaDir x) = none := by
  have key : ∀ b : Bool, ∀ x ∈ [0xF7#8, 0xFB#8], specialAt (BitVec.ofBool b ++ x) = none := by decide
  exact key s.bank x hx

@[simp] theorem portOf_toNat (p : Nibble) : (portOf p).toNat = p.toNat := by
  rw [portOf, toNat_append_eq]
  simp

/-- INM reads its port before it finds no RAM at HL. -/
theorem exec_inm_of_special {p : Nibble} (h : isSpecialArea s.eaHl = true) (hp : lowPort p.toNat) :
    exec (.inm p) s = .fault .bank0SpecialArea := by
  obtain ⟨v, hv⟩ := (portIn_isOk (portOf p) s).2 (by rwa [portOf_toNat])
  rw [exec, execInm, hv, onOk_ok, onOk_writeData_of_special _ _ h]

/-- Settles O19: the first access to data memory faults. -/
theorem specialAreaFaults : Obligations.SpecialAreaFaults := by
  refine ⟨fun s h i hi => ?_, fun s x h => ?_, fun s x h => ?_⟩
  · have ha := isSpecialArea_of_inSpecialArea h
    have reads (k : Nibble → Res) : onOk (readData s.eaHl s) k = .fault .bank0SpecialArea :=
      onOk_readData_of_special k ha
    have writes (v : Nibble) (k : State → Res) : onOk (writeData s.eaHl v s) k = .fault .bank0SpecialArea :=
      onOk_writeData_of_special v k ha
    simp only [List.mem_cons, List.not_mem_nil, or_false] at hi
    obtain hi | ⟨k, hi⟩ | ⟨b, hi⟩ | ⟨p, rfl⟩ | ⟨p, hp, rfl⟩ := hi
    · obtain rfl | rfl | rfl | rfl | rfl | rfl | rfl | rfl | rfl | rfl | rfl | rfl | rfl | rfl := hi
      exacts [reads _, writes _ _, writes _ _, writes _ _, reads _, reads _, reads _, reads _, reads _, reads _,
        reads _, reads _, reads _, reads _]
    · obtain rfl | rfl | rfl | rfl | rfl := hi
      exacts [writes _ _, reads _, reads _, reads _, reads _]
    · obtain rfl | rfl | rfl := hi
      exacts [reads _, reads _, reads _]
    · exact reads _
    · exact exec_inm_of_special ha hp
  · have ha := isSpecialArea_of_inSpecialArea h
    exact ⟨onOk_readData_of_special _ ha, onOk_readData_of_special _ ha,
      fun hx => direct_of_special ha (specialAt_unlisted hx)⟩
  · have ha := isSpecialArea_of_inSpecialArea h
    exact ⟨onOk_readData_of_special _ ha, onOk_readData_of_special _ ha⟩

end Sys2Proof.Machine
end

section
/-! What each agent beside the CPU may change, one frame per action. -/

namespace Sys2Proof.Machine

open Sys2Proof.Config

variable {s t u : State}

/-! ### Requests -/

/-- Every latch of IL that was set is still set. -/
def LatchesKept (s t : State) : Prop := s.il &&& t.il = s.il

theorem LatchesKept.refl (s : State) : LatchesKept s s := BitVec.and_self

theorem LatchesKept.trans (h : LatchesKept s u) (h' : LatchesKept u t) : LatchesKept s t := by
  unfold LatchesKept at *
  rw [← h, BitVec.and_assoc, h']

theorem request_latchesKept (s : State) (n : Source) : LatchesKept s (s.request n) := by
  change s.il &&& (s.il ||| _) = s.il
  ext i hi
  simpa using Or.inl

/-! ### Counters -/

theorem countA_il (s : State) : (countA s).il = s.il ∨ (countA s).il = (s.request .trga).il := by
  unfold countA
  split
  · exact .inr rfl
  · exact .inl rfl

theorem countB_il (s : State) : (countB s).il = s.il ∨ (countB s).il = (s.request .trgb).il := by
  unfold countB
  split
  · exact .inr rfl
  · exact .inl rfl

theorem countHtc_il (s : State) : (countHtc s).il = s.il ∨ (countHtc s).il = (s.request .htci).il := by
  unfold countHtc
  split
  · split
    · exact .inl rfl
    · exact .inr rfl
  · exact .inl rfl

theorem pulseA_il (s : State) : (pulseA s).il ∈ [s.il, s.il ||| 0b001000#6] := by
  simp only [List.mem_cons, List.not_mem_nil, or_false]
  unfold pulseA
  split
  · exact countA_il s
  · exact .inl rfl

theorem pulseB_il (s : State) : (pulseB s).il ∈ [s.il, s.il ||| 0b000100#6] := by
  simp only [List.mem_cons, List.not_mem_nil, or_false]
  unfold pulseB
  split
  · exact countB_il s
  · exact .inl rfl

theorem clockHtc_il (s : State) : (clockHtc s).il ∈ [s.il, s.il ||| 0b010000#6] := by
  simp only [List.mem_cons, List.not_mem_nil, or_false]
  unfold clockHtc
  split
  · exact countHtc_il s
  · exact .inl rfl

theorem tickTimeBase_il (s : State) : (tickTimeBase s).il ∈ [s.il, s.il ||| 0b000010#6] := by
  simp only [List.mem_cons, List.not_mem_nil, or_false]
  unfold tickTimeBase
  split
  · exact .inr rfl
  · exact .inl rfl

/-- The HTC's clock has no way to the preset. -/
theorem clockHtc_frame_preset (s : State) :
    clockHtc s = { s with htc := { (clockHtc s).htc with preset := s.htc.preset }, il := (clockHtc s).il } := by
  conv_lhs => rw [clockHtc_frame]
  rw [← clockHtc_preset]

/-! ### Release -/

theorem releaseByPin_frame (s : State) : releaseByPin s = { s with mode := (releaseByPin s).mode } := by
  obtain ⟨-, h⟩ | ⟨-, h⟩ | ⟨-, h⟩ := releaseByPin_cases s
  · rw [h]; rfl
  · rw [h]; rfl
  · rw [h]

theorem releaseByTimer_frame (s : State) :
    releaseByTimer s = { s with mode := (releaseByTimer s).mode, wks := (releaseByTimer s).wks } := by
  obtain ⟨-, h⟩ | h := releaseByTimer_cases s
  · rw [h]; rfl
  · rw [h]

theorem releaseByTimer_wks (h : s.wks = true) : (releaseByTimer s).wks = true := by
  obtain ⟨-, hrel⟩ | hrel := releaseByTimer_cases s
  · rw [hrel]; rfl
  · rw [hrel, h]

theorem wakePin_frame (s : State) :
    deviceAction .wakePin s = { s with mode := (deviceAction .wakePin s).mode } := by
  rw [deviceAction]
  split
  · exact releaseByPin_frame s
  · rfl

/-! ### Pins -/

theorem pinsOf_pinsPut (v : Pins) (p q : PinPort) (n : Nibble) :
    pinsOf (pinsPut v p n) q = if q = p then n else pinsOf v q := by
  cases p <;> cases q <;> rfl

/-- What an edge on port `p` may change: the event counter of the port, and requests (R322, R352). -/
structure EdgeEffect (p : PinPort) (s t : State) : Prop where
  frame : t = { s with ta := t.ta, tb := t.tb, il := t.il }
  latches : LatchesKept s t
  ta : p ≠ .p7 → t.ta = s.ta
  tb : p ≠ .p8 → t.tb = s.tb
  il : p ∉ [.p7, .p8] → t.il = s.il

theorem EdgeEffect.refl (p : PinPort) (s : State) : EdgeEffect p s s :=
  ⟨rfl, .refl s, fun _ => rfl, fun _ => rfl, fun _ => rfl⟩

theorem EdgeEffect.trans {p : PinPort} (h : EdgeEffect p s u) (h' : EdgeEffect p u t) : EdgeEffect p s t where
  frame := by rw [h'.frame, h.frame]
  latches := h.latches.trans h'.latches
  ta hp := (h'.ta hp).trans (h.ta hp)
  tb hp := (h'.tb hp).trans (h.tb hp)
  il hp := (h'.il hp).trans (h.il hp)

theorem countA_edge (s : State) : EdgeEffect .p7 s (countA s) where
  frame := by rw [countA_frame]
  latches := by
    obtain h | h := countA_il s
    · rw [LatchesKept, h, BitVec.and_self]
    · rw [LatchesKept, h]; exact request_latchesKept s _
  ta hp := absurd rfl hp
  tb _ := by rw [countA_frame]
  il hp := absurd (.head _) hp

theorem countB_edge (s : State) : EdgeEffect .p8 s (countB s) where
  frame := by rw [countB_frame]
  latches := by
    obtain h | h := countB_il s
    · rw [LatchesKept, h, BitVec.and_self]
    · rw [LatchesKept, h]; exact request_latchesKept s _
  ta _ := by rw [countB_frame]
  tb hp := absurd rfl hp
  il hp := absurd (.tail _ (.head _)) hp

theorem request_edge (s : State) (n : Source) : EdgeEffect .p8 s (s.request n) where
  frame := rfl
  latches := request_latchesKept s n
  ta _ := rfl
  tb _ := rfl
  il hp := absurd (.tail _ (.head _)) hp

theorem eventCount_edge (p : PinPort) (old new : Nibble) (s : State) : EdgeEffect p s (eventCount p old new s) := by
  unfold eventCount
  split
  · split
    · exact countA_edge s
    · exact .refl _ s
  · split
    · exact countB_edge s
    · exact .refl _ s
  · exact .refl _ s

theorem externalRequest_edge (p : PinPort) (old new : Nibble) (allowed : Bool) (s : State) :
    EdgeEffect p s (externalRequest p old new allowed s) := by
  unfold externalRequest
  split
  · split
    · split
      · exact (request_edge s _).trans (request_edge _ _)
      · exact request_edge _ _
    · split
      · exact request_edge s _
      · exact .refl _ s
  · exact .refl _ s

/-- New levels: first the edges act, then an enabled wake-up pin may release. -/
theorem changePins_effect (p : PinPort) (level : Nibble) (s : State) :
    ∃ w, EdgeEffect p (s.setPins (pinsPut s.pins p level)) w ∧
      changePins p level s = { w with mode := (changePins p level s).mode } := by
  have edges (old new : Nibble) (allowed : Bool) (t : State) :
      EdgeEffect p t (externalRequest p old new allowed (eventCount p old new t)) :=
    (eventCount_edge p old new t).trans (externalRequest_edge p old new allowed _)
  refine ⟨_, edges (pinsOf s.pins p) level (s.mode.running || wakes s.opts p (pinsOf s.pins p) level) _, ?_⟩
  unfold changePins
  dsimp only
  split
  · exact releaseByPin_frame _
  · rfl

theorem changePins_frame (p : PinPort) (level : Nibble) (s : State) :
    changePins p level s = { s with
      pins := (changePins p level s).pins, ta := (changePins p level s).ta, tb := (changePins p level s).tb,
      il := (changePins p level s).il, mode := (changePins p level s).mode } := by
  obtain ⟨w, hw, h⟩ := changePins_effect p level s
  rw [h, hw.frame]
  rfl

/-! ### The step -/

theorem step_of_event {e : Event} {rest : List Event} (hs : s.schedule = e :: rest) (he : e ≠ .cpu) :
    step s = .next (deviceAction e (s.setSchedule rest)) := by
  rw [step, boundary, hs]
  cases e
  case cpu => exact absurd rfl he
  all_goals rfl

/-- Settles O49: one frame lemma per agent. -/
theorem devicesLeaveTheCpuAlone : Obligations.DevicesLeaveTheCpuAlone := by
  intro s u e rest hs hu he
  obtain rfl : u = s.setSchedule rest := hu
  refine ⟨_, step_of_event hs fun hc => he (by simp [hc]), ?_⟩
  cases e with
  | cpu | resetPin | wdtClock | wdtTimeUp => simp at he
  | int0 | int1 => simp only [deviceAction, Mode.running_iff]; rfl
  | oscillator stable => rfl
  | pins p v =>
    obtain ⟨w, hw, h⟩ := changePins_effect p v (s.setSchedule rest)
    rw [deviceAction]
    refine ⟨changePins_frame p v _, fun q => ?_, ?_, ?_, ?_, ?_⟩
    all_goals rw [h]
    · rw [← pinsOf_pinsPut, hw.frame]; rfl
    · exact hw.latches
    · exact hw.ta
    · exact hw.tb
    · exact hw.il
  | timerAPulse => exact ⟨pulseA_frame _, pulseA_il (s.setSchedule rest)⟩
  | timerBPulse => exact ⟨pulseB_frame _, pulseB_il (s.setSchedule rest)⟩
  | htcClock => exact ⟨clockHtc_frame_preset _, clockHtc_il (s.setSchedule rest)⟩
  | timeBaseTick => exact ⟨tickTimeBase_frame _, tickTimeBase_il (s.setSchedule rest)⟩
  | wakePin => exact wakePin_frame _
  | wakeTimer => exact ⟨releaseByTimer_frame _, releaseByTimer_wks (s := s.setSchedule rest)⟩

end Sys2Proof.Machine
end

section
/-! What every step keeps of the chip itself, ROM and options, and that no step is refused. -/

namespace Sys2Proof.Machine

open Sys2Proof.Config

variable {s t u : State}

/-! ### No refusal -/

/-- The answer is a next state or a fault (R310). -/
def Meant (r : Res) : Prop := ∀ x, r ≠ .refused x

theorem meant_next (t : State) : Meant (.next t) := fun _ => nofun

theorem meant_fault (f : Fault) : Meant (.fault f) := fun _ => nofun

theorem meant_onOk {α : Type} {r : Except Fault α} {k : α → Res} (h : ∀ a, Meant (k a)) : Meant (onOk r k) :=
  fun x => onOk_ne_refused fun a => h a x

/-- One check, then the next state. -/
theorem meant_onOk_next {α : Type} {r : Except Fault α} {f : α → State} : Meant (onOk r fun a => .next (f a)) :=
  meant_onOk fun _ => meant_next _

theorem meant_updateData {a : DataAddr} {len : Nat} {f : Nibble → Alu} {g : State → Alu → State} :
    Meant (updateData a len f g s) :=
  meant_onOk fun _ => meant_onOk_next

theorem exec_meant (i : Instr) (s : State) : Meant (exec i s) := by
  cases i
  case add | addm | decm | incm | subm | andm | orm | clm | clr | sem | set => exact meant_updateData
  case exa | exam | inm | outm | ldhl => exact meant_onOk fun _ => meant_onOk_next
  case exhl => exact meant_onOk fun _ => meant_onOk fun _ => meant_onOk fun _ => meant_onOk_next
  case ldax | ldaxi | ldh | ldia | ldl | tha | tla | rlca | rrca | adda | addh | addl | deca | decl | inca | incl |
      suba | anda | ora | exah | exal | sbr | lbr | slbrHigh | slbrLow | cmph | cmpia | cmpl | tfa | tfcfc | ttcfs |
      tzs | cil | dicil | eicil | exae | nop =>
    exact meant_next _
  all_goals exact meant_onOk_next

theorem cpuTurn_meant (s : State) : Meant (cpuTurn s) := by
  unfold cpuTurn
  split
  · split
    · exact meant_onOk_next
    · unfold runInstruction
      split
      · exact exec_meant _ s
      · exact meant_fault _
  · exact meant_next s

theorem step_meant (s : State) : Meant (step s) := by
  change Meant (boundary s)
  unfold boundary
  split
  · exact cpuTurn_meant s
  · exact cpuTurn_meant _
  · exact meant_next _

/-! ### The chip -/

/-- ROM and options are the same. -/
def SameChip (s t : State) : Prop := t.rom = s.rom ∧ t.opts = s.opts

theorem SameChip.refl (s : State) : SameChip s s := ⟨rfl, rfl⟩

theorem SameChip.trans (h : SameChip s u) (h' : SameChip u t) : SameChip s t :=
  ⟨h'.1.trans h.1, h'.2.trans h.2⟩

theorem SameChip.of_periphery (h : t.periphery = s.periphery) : SameChip s t :=
  ⟨congrArg Periphery.rom h, congrArg Periphery.opts h⟩

theorem portOut_sameChip {p : BitVec 5} {v : Nibble} (h : portOut p v s = .ok u) : SameChip s u := by
  rw [portOut_frame h]
  exact .refl s

theorem cpuTurn_sameChip (h : cpuTurn s = .next t) : SameChip s t := by
  obtain hkept | ⟨p, v, u, hu, hout⟩ := cpuTurn_periphery h
  · exact .of_periphery hkept
  · exact (portOut_sameChip hu).trans (.of_periphery hout)

theorem clockWdt_sameChip (s : State) : SameChip s (clockWdt s) := by
  obtain h | h | h := clockWdt_cases s
  all_goals rw [h]; exact .refl s

/-- No other agent has a way to ROM or options, a reset neither (R381). -/
theorem deviceAction_sameChip (e : Event) (s : State) : SameChip s (deviceAction e s) := by
  cases e with
  | cpu | oscillator | resetPin => exact .refl s
  | pins p level => rw [deviceAction, changePins_frame]; exact .refl s
  | int0 | int1 | wdtTimeUp => rw [deviceAction]; split <;> exact .refl s
  | timerAPulse => rw [deviceAction, pulseA_frame]; exact .refl s
  | timerBPulse => rw [deviceAction, pulseB_frame]; exact .refl s
  | htcClock => rw [deviceAction, clockHtc_frame]; exact .refl s
  | timeBaseTick => rw [deviceAction, tickTimeBase_frame]; exact .refl s
  | wakePin => rw [wakePin_frame]; exact .refl s
  | wakeTimer => rw [deviceAction, releaseByTimer_frame]; exact .refl s
  | wdtClock => exact clockWdt_sameChip s

theorem step_sameChip (h : step s = .next t) : SameChip s t := by
  obtain ⟨-, h⟩ | ⟨rest, -, h⟩ | ⟨e, rest, -, -, rfl⟩ := step_eq_next h
  · exact cpuTurn_sameChip h
  · exact cpuTurn_sameChip (s := s.setSchedule rest) h
  · exact deviceAction_sameChip e (s.setSchedule rest)

/-- Settles O56. -/
theorem romIsNeverWritten : Obligations.RomIsNeverWritten :=
  fun s => ⟨step_meant s, fun _ h => step_sameChip h⟩

end Sys2Proof.Machine
end

section
/-! The ports 0 to 11 and 14: what an input reads, what an output writes, and where a bit instruction starts, in the
terms of the port table. -/

namespace Sys2Proof.Machine

open Sys2Proof.Config

variable {s t u : State}

/-! ### Ports with pins -/

/-- The number of a port that has pins (R49). -/
def PinPort.code : PinPort → BitVec 5
  | .p0 => 0#5
  | .p1 => 1#5
  | .p2 => 2#5
  | .p3 => 3#5
  | .p4 => 4#5
  | .p5 => 5#5
  | .p6 => 6#5
  | .p7 => 7#5
  | .p8 => 8#5

/-- The low ports: those with pins, the bank port, the two nibbles of the HTC, the status port (R49). -/
theorem lowPort_cases {p : BitVec 5} (h : lowPort p.toNat) :
    (∃ port : PinPort, p = port.code) ∨ p = 9#5 ∨ p = 10#5 ∨ p = 11#5 ∨ p = 14#5 := by
  have key : ∀ p : BitVec 5, p.toNat ≤ 11 ∨ p.toNat = 14 →
      p ∈ [PinPort.p0, .p1, .p2, .p3, .p4, .p5, .p6, .p7, .p8].map PinPort.code ∨
        p = 9#5 ∨ p = 10#5 ∨ p = 11#5 ∨ p = 14#5 := by decide
  refine (key p h).imp (fun hp => ?_) id
  obtain ⟨port, -, hport⟩ := List.mem_map.1 hp
  exact ⟨port, hport.symm⟩

/-- A bit has a pin where the mask has 1 (R52). -/
theorem pinExists_code (o : Options) (port : PinPort) (b : Nat) :
    pinExists o port.code.toNat b = (pinMask o port).getLsbD b := by
  cases port
  all_goals simp only [PinPort.code, BitVec.toNat_ofNat, Nat.reducePow, Nat.reduceMod, pinExists, pinMask]
  case p3 => cases o.p3Segments <;> rcases b with _ | _ | _ | _ | b <;> simp
  all_goals rcases b with _ | _ | _ | _ | b <;> simp

theorem merge_getLsbD (m v w : Nibble) {b : Nat} (hb : b < 4) :
    (merge m v w).getLsbD b = if m.getLsbD b then v.getLsbD b else w.getLsbD b := by
  rw [merge, BitVec.getLsbD_or, BitVec.getLsbD_and, BitVec.getLsbD_and, BitVec.getLsbD_not]
  cases m.getLsbD b <;> simp [hb]

/-! ### Inputs -/

theorem portIn_code (port : PinPort) (s : State) : portIn port.code s = .ok (s.pinRead port) := by
  cases port <;> rfl

theorem readsAs_code (port : PinPort) (s : State) (v : Nibble) :
    ReadsAs port.code.toNat s v ↔
      ∀ b, pinExists s.opts port.code.toNat b = true → v.getLsbD b = (pinsOf s.pins port).getLsbD b := by
  cases port <;> exact Iff.rfl

theorem pinRead_readsAs (port : PinPort) (s : State) : ReadsAs port.code.toNat s (s.pinRead port) := by
  rw [readsAs_code]
  intro b hb
  rw [pinExists_code] at hb
  rw [State.pinRead, merge_getLsbD _ _ _ (BitVec.lt_of_getLsbD hb), if_pos hb]

theorem statusRead_readsAs (s : State) : ReadsAs 14 s s.statusRead := by
  change _ ∧ _ ∧ _
  have hmode : (s.mode == .slow) = decide (s.mode = .slow) := rfl
  unfold State.statusRead
  rw [hmode]
  generalize s.freeNibble.getLsbD 3 = b3
  generalize s.wks = b2
  generalize s.lfs = b1
  generalize decide (s.mode = .slow) = b0
  revert b3 b2 b1 b0
  decide

/-- Every low port can be read, and shows what the port table fixes (R87). -/
theorem portIn_readsAs {p : BitVec 5} (h : lowPort p.toNat) (s : State) :
    ∃ v, portIn p s = .ok v ∧ ReadsAs p.toNat s v := by
  obtain ⟨port, rfl⟩ | rfl | rfl | rfl | rfl := lowPort_cases h
  · exact ⟨_, portIn_code port s, pinRead_readsAs port s⟩
  · exact ⟨_, rfl, rfl⟩
  · refine ⟨_, rfl, fun hstop => ?_⟩
    rw [State.htcRead, if_pos ((htcMode_eq_stop_iff _).2 hstop), BitVec.extractLsb'_toNat]
    simp
  · refine ⟨_, rfl, fun hstop => ?_⟩
    have := s.htc.count.isLt
    rw [State.htcRead, if_pos ((htcMode_eq_stop_iff _).2 hstop), BitVec.extractLsb'_toNat, Nat.shiftRight_eq_div_pow]
    omega
  · exact ⟨_, rfl, statusRead_readsAs s⟩

/-! ### Outputs -/

/-- The latches with one nibble replaced; ports 0 and 2 have none (R51). -/
def latchPut (l : Latches) (port : PinPort) (v : Nibble) : Latches :=
  match port with
  | .p0 => l
  | .p1 => { l with p1 := v }
  | .p2 => l
  | .p3 => { l with p3 := v }
  | .p4 => { l with p4 := v }
  | .p5 => { l with p5 := v }
  | .p6 => { l with p6 := v }
  | .p7 => { l with p7 := v }
  | .p8 => { l with p8 := v }

/-- The port has an output latch (R50, R51). -/
def HasLatch (port : PinPort) : Prop := port ≠ .p0 ∧ port ≠ .p2

theorem portOut_code {port : PinPort} (h : HasLatch port) (v : Nibble) (s : State) :
    portOut port.code v s =
      .ok (s.setLatch (latchPut s.latch port (merge (pinMask s.opts port) v (latchOf s port.code.toNat)))) := by
  cases port
  case p0 => exact absurd rfl h.1
  case p2 => exact absurd rfl h.2
  all_goals rfl

theorem latchOf_latchPut_same {port : PinPort} (h : HasLatch port) (s : State) (v : Nibble) :
    latchOf (s.setLatch (latchPut s.latch port v)) port.code.toNat = v := by
  cases port
  case p0 => exact absurd rfl h.1
  case p2 => exact absurd rfl h.2
  all_goals rfl

theorem latchOf_latchPut_other {port : PinPort} {q : Nat} (s : State) (v : Nibble) (hq : q ∈ [1, 3, 4, 5, 6, 7, 8])
    (hne : q ≠ port.code.toNat) : latchOf (s.setLatch (latchPut s.latch port v)) q = latchOf s q := by
  simp only [List.mem_cons, List.not_mem_nil, or_false] at hq
  obtain rfl | rfl | rfl | rfl | rfl | rfl | rfl := hq
  all_goals cases port <;> first | rfl | exact absurd rfl hne

theorem latchPut_p9 (l : Latches) (port : PinPort) (v : Nibble) : (latchPut l port v).p9 = l.p9 := by
  cases port <;> rfl

theorem writesAs_code {port : PinPort} (h : HasLatch port) (v : Nibble) (s t : State) :
    WritesAs port.code.toNat v s t ↔
      t = { s with latch := t.latch } ∧ t.latch.p9 = s.latch.p9 ∧
      (∀ b, b < 4 → (latchOf t port.code.toNat).getLsbD b =
        if pinExists s.opts port.code.toNat b then v.getLsbD b else (latchOf s port.code.toNat).getLsbD b) ∧
      ∀ q, q ∈ [1, 3, 4, 5, 6, 7, 8] → q ≠ port.code.toNat → latchOf t q = latchOf s q := by
  cases port
  case p0 => exact absurd rfl h.1
  case p2 => exact absurd rfl h.2
  all_goals exact Iff.rfl

theorem preset_low_eq (b : Byte) (v : Nibble) :
    b.extractLsb' 4 4 ++ v = BitVec.ofNat 8 (16 * (b.toNat / 16) + v.toNat) := by
  apply BitVec.eq_of_toNat_eq
  rw [toNat_append_eq, (high_nibble_eq b).1, BitVec.toNat_ofNat, BitVec.toNat_ofNat]
  have := b.isLt
  have := v.isLt
  omega

theorem preset_high_eq (b : Byte) (v : Nibble) :
    v ++ b.extractLsb' 0 4 = BitVec.ofNat 8 (16 * v.toNat + b.toNat % 16) := by
  apply BitVec.eq_of_toNat_eq
  rw [toNat_append_eq, (low_nibble_eq b).1, BitVec.toNat_ofNat, BitVec.toNat_ofNat]
  have := b.isLt
  have := v.isLt
  omega

/-- Every low port can be written, and takes what the port table says (R88). -/
theorem portOut_writesAs {p : BitVec 5} (h : lowPort p.toNat) (v : Nibble) (s : State) :
    ∃ u, portOut p v s = .ok u ∧ WritesAs p.toNat v s u := by
  obtain ⟨port, rfl⟩ | rfl | rfl | rfl | rfl := lowPort_cases h
  · by_cases hp : HasLatch port
    · refine ⟨_, portOut_code hp v s, (writesAs_code hp v s _).2
        ⟨rfl, latchPut_p9 _ _ _, fun b hb => ?_, fun q hq hne => ?_⟩⟩
      · rw [latchOf_latchPut_same hp, merge_getLsbD _ _ _ hb, pinExists_code]
      · exact latchOf_latchPut_other s _ hq hne
    · have hport : port = .p0 ∨ port = .p2 := by
        rwa [HasLatch, not_and_or, not_not, not_not] at hp
      obtain rfl | rfl := hport
      all_goals exact ⟨s, rfl, rfl⟩
  · exact ⟨_, rfl, rfl⟩
  · refine ⟨_, rfl, ?_⟩
    rw [preset_low_eq]
    rfl
  · refine ⟨_, rfl, ?_⟩
    rw [preset_high_eq]
    rfl
  · exact ⟨_, rfl, rfl⟩

/-- The latch that a bit instruction reads, where the port takes a nibble (R88). -/
theorem portLatch_eq_latchNibble {p : BitVec 5} (h : lowPort p.toNat)
    (hp : ¬ (p.toNat = 0 ∨ p.toNat = 2 ∨ p.toNat = 14)) (s : State) : portLatch p s = latchNibble s p.toNat := by
  obtain ⟨port, rfl⟩ | rfl | rfl | rfl | rfl := lowPort_cases h
  · cases port
    case p0 => exact absurd (.inl rfl) hp
    case p2 => exact absurd (.inr (.inl rfl)) hp
    all_goals rfl
  · rfl
  · exact (low_nibble_eq s.htc.preset).1
  · exact (high_nibble_eq s.htc.preset).1
  · exact absurd (.inr (.inr rfl)) hp

/-- An output looks at the nibble it is given, not at Acc. -/
theorem portOut_setAcc (p : BitVec 5) (v a : Nibble) (s : State) :
    portOut p v (s.setAcc a) = (portOut p v s).map (·.setAcc a) := by
  unfold portOut
  split
  case h_14 => simp only [writeP16, apply_ite (Except.map _)]; rfl
  case h_15 =>
    simp only [writeP19]
    split
    · rfl
    · rw [apply_ite (Except.map _)]; rfl
    · rfl
  case h_16 =>
    simp only [writeP21, apply_ite (Except.map _)]
    simp only [Except.map, apply_ite (State.setAcc · a)]
    rfl
  case h_17 =>
    simp only [writeP22, State.setAcc_opts, State.setAcc_mode]
    split
    · rw [apply_ite (Except.map _)]; rfl
    · rfl
    · rfl
  case h_18 => rw [writeP25, writeP25, apply_ite (Except.map _)]; rfl
  case h_19 => simp only [writeP27]; split <;> rfl
  case h_20 => rw [writeP28, writeP28, apply_ite (Except.map _)]; rfl
  case h_22 =>
    simp only [writeP31, apply_ite (Except.map _)]
    simp only [Except.map, apply_ite (State.setAcc · a)]
    rfl
  all_goals rfl

/-! ### Input instructions -/

theorem lowPort_portOf {p : Nibble} (h : lowPort p.toNat) : lowPort (portOf p).toNat := by
  rwa [portOf_toNat]

/-- LR names one of the ports 4 to 7 (R23). -/
theorem lrPort_toNat (s : State) : s.lrPort.toNat = 4 + s.lr.toNat / 4 := by
  unfold State.lrPort
  generalize s.lr = l
  revert l; decide

theorem lrBit_toNat (s : State) : s.lrBit.toNat = s.lr.toNat % 4 := by
  rw [State.lrBit, BitVec.extractLsb'_toNat]
  rfl

theorem lowPort_lrPort (s : State) : lowPort s.lrPort.toNat := by
  have := s.lr.isLt
  rw [lrPort_toNat]
  exact .inl (by omega)

theorem testPort_of_low {p : BitVec 5} (h : lowPort p.toNat) (len : Nat) (f : Nibble → Bool) (s : State) :
    ∃ v, ReadsAs p.toNat s v ∧ testPort p len f s = .next ((s.drawn.setSf (f v)).advance len) := by
  obtain ⟨v, hv, hr⟩ := portIn_readsAs h s
  exact ⟨v, hr, by rw [testPort, hv, onOk_ok]⟩

/-- A free value drawn changes nothing a store looks at. -/
theorem storedOnly_drawn (a : DataAddr) (v : Nibble) (s : State) : StoredOnly a v s (s.drawn.poke a v) :=
  storedOnly_of_poke (s := s.drawn) rfl rfl (by rw [State.poke_eq])

theorem exec_inm_of_ram {p v : Nibble} (hv : portIn (portOf p) s = .ok v) (h : IsRam s.eaHl) :
    exec (.inm p) s = .next (((s.drawn.poke s.eaHl v).setSf (!isZero v)).advance 2) := by
  rw [exec, execInm, hv, onOk_ok, writeData_of_ram _ _ (isSpecialArea_of_isRam h), onOk_ok]

/-- Settles O30. -/
theorem inputsReadThePort : Obligations.InputsReadThePort := by
  refine ⟨⟨coded_of_wf (i := .tfpl) rfl, fun p => ⟨coded_of_wf (i := .ina p) rfl, coded_of_wf (i := .inm p) rfl,
    fun b => ⟨coded_of_wf (i := .tfp p b) rfl, coded_of_wf (i := .ttp p b) rfl⟩⟩⟩, fun s p hp => ?_, fun s => ?_⟩
  · obtain ⟨v, hv, hr⟩ := portIn_readsAs (lowPort_portOf hp) s
    rw [portOf_toNat] at hr
    refine ⟨⟨_, v, hr, by rw [exec, execIna, hv, onOk_ok], rfl⟩, fun hram => ?_, fun b => ⟨?_, ?_⟩⟩
    · refine ⟨_, v, hr, exec_inm_of_ram hv hram, storedOnly_drawn _ _ s, ?_⟩
      rw [State.poke_eq]
      rfl
    · obtain ⟨v, hr, h⟩ := testPort_of_low (lowPort_portOf hp) 2 (fun v => !testBit v b) s
      exact ⟨_, v, portOf_toNat p ▸ hr, h, rfl⟩
    · obtain ⟨v, hr, h⟩ := testPort_of_low (lowPort_portOf hp) 2 (fun v => testBit v b) s
      exact ⟨_, v, portOf_toNat p ▸ hr, h, rfl⟩
  · obtain ⟨v, hr, h⟩ := testPort_of_low (lowPort_lrPort s) 1 (fun v => !testBit v s.lrBit) s
    rw [lrPort_toNat] at hr
    refine ⟨_, v, hr, h, ?_⟩
    rw [testBit, lrBit_toNat]
    rfl

/-! ### Output instructions -/

theorem portOut_pc {p : BitVec 5} {v : Nibble} (h : portOut p v s = .ok u) : u.pc = s.pc := by
  rw [portOut_frame h]

theorem portOut_acc {p : BitVec 5} {v : Nibble} (h : portOut p v s = .ok u) : u.acc = s.acc := by
  rw [portOut_frame h]

theorem outputTo_of_low {p : BitVec 5} (h : lowPort p.toNat) (v : Nibble) (s : State) :
    ∃ u, WritesAs p.toNat v s u ∧ outputTo p v s = .next { u with sf := true, pc := s.pc + 2#13 } := by
  obtain ⟨u, hu, hw⟩ := portOut_writesAs h v s
  exact ⟨u, hw, by rw [outputTo_of_ok hu, portOut_pc hu]⟩

theorem exec_outm_of_ram (p : BitVec 5) (h : IsRam s.eaHl) :
    exec (.outm p) s = outputTo p (s.peek s.eaHl) s := by
  rw [exec, execOutm, withHl, readData_of_ram s (isSpecialArea_of_isRam h), onOk_ok]

/-- What an output of `v` does does not depend on Acc, and Acc keeps its value. -/
theorem outputTo_of_setAcc {p : BitVec 5} {v a : Nibble} (h : outputTo p v (s.setAcc a) = .next t) :
    outputTo p v s = .next (t.setAcc s.acc) := by
  obtain ⟨w, hw, rfl⟩ := outputTo_eq_next h
  rw [portOut_setAcc] at hw
  cases hu : portOut p v s with
  | error f => rw [hu] at hw; cases hw
  | ok u =>
    rw [hu] at hw
    obtain rfl := Except.ok.inj hw
    rw [outputTo_of_ok hu, ← portOut_acc hu]
    rfl

/-- Settles O31. -/
theorem outputsWriteThePort : Obligations.OutputsWriteThePort := by
  refine ⟨⟨fun k p => coded_of_wf (i := .out k p) rfl, fun p => ⟨coded_of_wf (i := .outa p) rfl,
    coded_of_wf (i := .outm p) rfl⟩⟩, fun s k p hp => ?_, fun s p hp => outputTo_of_low hp s.acc s,
    fun s p hp hram => ?_, fun s t p hram h => ?_⟩
  · have hout := outputTo_of_low (lowPort_portOf hp) k s
    rwa [portOf_toNat] at hout
  · rw [exec_outm_of_ram p hram]
    exact outputTo_of_low hp _ s
  · rw [exec_outm_of_ram p hram]
    exact outputTo_of_setAcc h

/-! ### Bit instructions -/

theorem setBit_getLsbD (v : Nibble) (b : BitVec 2) {c : Nat} (hc : c < 4) :
    (setBit v b).getLsbD c = if c = b.toNat then true else v.getLsbD c := by
  have key : ∀ (v : Nibble) (b : BitVec 2), ∀ c < 4,
      (setBit v b).getLsbD c = if c = b.toNat then true else v.getLsbD c := by decide
  exact key v b c hc

theorem clearBit_getLsbD (v : Nibble) (b : BitVec 2) {c : Nat} (hc : c < 4) :
    (clearBit v b).getLsbD c = if c = b.toNat then false else v.getLsbD c := by
  have key : ∀ (v : Nibble) (b : BitVec 2), ∀ c < 4,
      (clearBit v b).getLsbD c = if c = b.toNat then false else v.getLsbD c := by decide
  exact key v b c hc

/-- A bit instruction on a low port: the nibble written has the bit `x`, the others as the latch has them, where the
port takes a nibble. -/
theorem updatePort_of_low {p : BitVec 5} (h : lowPort p.toNat) (len : Nat) {f : Nibble → Nibble} {n : Nat} {x : Bool}
    (hf : ∀ v c, c < 4 → (f v).getLsbD c = if c = n then x else v.getLsbD c) (s : State) :
    ∃ u v, WritesAs p.toNat v s u ∧
      (∀ c, c < 4 → v.getLsbD c = if c = n then x
        else if p.toNat = 0 ∨ p.toNat = 2 ∨ p.toNat = 14 then v.getLsbD c
        else (latchNibble s p.toNat).getLsbD c) ∧
      updatePort p len f s = .next { u with sf := true, pc := s.nextPc len } := by
  obtain ⟨u, hu, hw⟩ := portOut_writesAs h (f (portLatch p s)) s
  refine ⟨u, _, hw, fun c hc => ?_, ?_⟩
  · split
    · next hn => rw [hf _ c hc, if_pos hn]
    · next hn =>
      split
      · rfl
      · next hp => rw [hf _ c hc, if_neg hn, portLatch_eq_latchNibble h hp]
  · rw [updatePort, hu, onOk_ok, State.nextPc, ← portOut_pc hu]
    rfl

theorem latchNibble_of_lt {p : Nat} (h : p < 9) (s : State) : latchNibble s p = latchOf s p := by
  rw [latchNibble, if_neg (Nat.ne_of_lt h), if_neg (show p ≠ 10 by omega), if_neg (show p ≠ 11 by omega)]

/-- The same on the port LR points at, which always has an output latch (R23). -/
theorem updatePort_lrPort (len : Nat) {f : Nibble → Nibble} {x : Bool} {s : State}
    (hf : ∀ v c, c < 4 → (f v).getLsbD c = if c = s.lrBit.toNat then x else v.getLsbD c) :
    ∃ u v, WritesAs (4 + s.lr.toNat / 4) v s u ∧
      (∀ c, c < 4 → v.getLsbD c = if c = s.lr.toNat % 4 then x
        else (latchOf s (4 + s.lr.toNat / 4)).getLsbD c) ∧
      updatePort s.lrPort len f s = .next { u with sf := true, pc := s.nextPc len } := by
  obtain ⟨u, v, hw, hv, h⟩ := updatePort_of_low (lowPort_lrPort s) len hf s
  rw [lrPort_toNat] at hw hv
  rw [lrBit_toNat] at hv
  have hlr := s.lr.isLt
  have hlatch : ¬ (4 + s.lr.toNat / 4 = 0 ∨ 4 + s.lr.toNat / 4 = 2 ∨ 4 + s.lr.toNat / 4 = 14) := by omega
  refine ⟨u, v, hw, fun c hc => ?_, h⟩
  rw [hv c hc, if_neg hlatch, latchNibble_of_lt (by omega)]

/-- Settles O32. -/
theorem portBitInstructions : Obligations.PortBitInstructions := by
  refine ⟨⟨fun p b => ⟨coded_of_wf (i := .sep p b) rfl, coded_of_wf (i := .clp p b) rfl⟩,
    coded_of_wf (i := .sepl) rfl, coded_of_wf (i := .clpl) rfl⟩, fun s p b hp => ?_, fun s => ?_⟩
  · have hset := updatePort_of_low (lowPort_portOf hp) 2 (f := fun v => setBit v b)
      (fun v _ => setBit_getLsbD v b) s
    have hclear := updatePort_of_low (lowPort_portOf hp) 2 (f := fun v => clearBit v b)
      (fun v _ => clearBit_getLsbD v b) s
    rw [portOf_toNat] at hset hclear
    exact ⟨hset, hclear⟩
  · exact ⟨updatePort_lrPort 1 (f := fun v => setBit v s.lrBit) fun v _ => setBit_getLsbD v s.lrBit,
      updatePort_lrPort 1 (f := fun v => clearBit v s.lrBit) fun v _ => clearBit_getLsbD v s.lrBit⟩

end Sys2Proof.Machine
end

section
/-! The encoding: the decoder undoes the encoder on every well-formed instruction, the encoder undoes the decoder
wherever it answers, and it answers on all bytes but the patterns of R107 (R101 to R109). -/

namespace Sys2Proof.Machine

/-- Settles O37: a well-formed instruction is `Coded` as its own bytes. -/
theorem decodeOfEncode : Obligations.DecodeOfEncode := by
  intro i rest hw
  obtain ⟨-, -, hdec⟩ := coded_of_wf hw
  exact hdec rest

/-- Settles O36: each word is the encoding of the instruction beside it, which is well-formed, so that O37 reads it
back. -/
theorem writtenWordsDecode : Obligations.WrittenWordsDecode := by
  intro row hrow
  have hwritten : row.2.encode = row.1 ∧ row.2.wf = true := by
    revert row
    decide
  obtain ⟨henc, hw⟩ := hwritten
  have hdec := decodeOfEncode row.2 [] hw
  rwa [henc, List.append_nil] at hdec

/-! ### Bytes by their fields -/

/-- A property of the sixteen values of a nibble, value by value. -/
theorem forall_nibble {P : Nibble → Prop} (n0 : P 0x0#4) (n1 : P 0x1#4) (n2 : P 0x2#4) (n3 : P 0x3#4) (n4 : P 0x4#4)
    (n5 : P 0x5#4) (n6 : P 0x6#4) (n7 : P 0x7#4) (n8 : P 0x8#4) (n9 : P 0x9#4) (nA : P 0xA#4) (nB : P 0xB#4)
    (nC : P 0xC#4) (nD : P 0xD#4) (nE : P 0xE#4) (nF : P 0xF#4) (v : Nibble) : P v := by
  obtain ⟨n, hn⟩ := v
  interval_cases n
  all_goals assumption

/-- The same for the four values of a field of two bits. -/
theorem forall_two_bits {P : BitVec 2 → Prop} (c0 : P 0#2) (c1 : P 1#2) (c2 : P 2#2) (c3 : P 3#2) (v : BitVec 2) :
    P v := by
  obtain ⟨n, hn⟩ := v
  interval_cases n
  all_goals assumption

theorem exists_append {m n : Nat} (x : BitVec (m + n)) : ∃ (h : BitVec m) (l : BitVec n), x = h ++ l :=
  ⟨x.extractLsb' n m, x.extractLsb' 0 n, by
    rw [BitVec.extractLsb'_append_extractLsb'_eq_extractLsb' (by omega), BitVec.extractLsb'_eq_self]⟩

theorem exists_byteOf (b : Byte) : ∃ h l, b = byteOf h l :=
  exists_append (m := 4) (n := 4) b

/-- Dividing by the range of the lower field leaves the upper one. -/
theorem toNat_append_div {m n : Nat} (h : BitVec m) (l : BitVec n) : (h ++ l).toNat / 2 ^ n = h.toNat := by
  rw [toNat_append_eq, Nat.mul_add_div (by positivity), Nat.div_eq_of_lt l.isLt, Nat.add_zero]

theorem toNat_append_mod {m n : Nat} (h : BitVec m) (l : BitVec n) : (h ++ l).toNat % 2 ^ n = l.toNat := by
  rw [toNat_append_eq, Nat.mul_add_mod, Nat.mod_eq_of_lt l.isLt]

theorem byteOf_toNat_div (h l : Nibble) : (byteOf h l).toNat / 16 = h.toNat :=
  toNat_append_div h l

/-- The bytes with a bit number between an upper field of two bits and a nibble. -/
theorem exists_bit_fields (b : Byte) : ∃ (c n : BitVec 2) (y : Nibble), b = c ++ n ++ y := by
  obtain ⟨h, y, rfl⟩ := exists_byteOf b
  obtain ⟨c, n, rfl⟩ := exists_append (m := 2) (n := 2) h
  exact ⟨c, n, y, rfl⟩

/-! ### The unassigned patterns -/

/-- The patterns of R107, as O38 lists them. -/
def Unassigned (b0 b1 : Byte) : Prop :=
  b0 ∈ [0x54#8, 0x77#8, 0x7A#8] ∨
  (b0 = 0x6E#8 ∧ b1.toNat / 16 ∈ [0x0, 0x2, 0x8, 0xA]) ∨
  (b0 = 0x6F#8 ∧ b1.toNat / 16 ∈ [0x2, 0x3, 0x5, 0x6, 0x7, 0xA, 0xB, 0xD, 0xE, 0xF]) ∨
  (b0 = 0x63#8 ∧ b1.toNat / 64 = 0) ∨
  (b0 ∈ [0x4C#8, 0x4E#8] ∧ b1.toNat % 4 ≠ 0) ∨
  (b0 ∈ [0x55#8, 0x57#8] ∧ b1.toNat / 16 ≠ 0xC)

/-- The first bytes that a pattern of R107 can begin with. -/
def doubtfulFirst : List Byte :=
  [0x54#8, 0x77#8, 0x7A#8, 0x6E#8, 0x6F#8, 0x63#8, 0x4C#8, 0x4E#8, 0x55#8, 0x57#8]

theorem mem_doubtfulFirst_of_unassigned {b0 b1 : Byte} (h : Unassigned b0 b1) : b0 ∈ doubtfulFirst := by
  obtain h | ⟨h, -⟩ | ⟨h, -⟩ | ⟨h, -⟩ | ⟨h, -⟩ | ⟨h, -⟩ := h
  all_goals revert b0; decide

section
variable (b1 : Byte)

theorem unassigned_of_single {b0 : Byte} (h : b0 ∈ [0x54#8, 0x77#8, 0x7A#8]) : Unassigned b0 b1 := .inl h

theorem unassigned_immediate : Unassigned 0x6E#8 b1 ↔ b1.toNat / 16 ∈ [0x0, 0x2, 0x8, 0xA] := by
  simp [Unassigned]

theorem unassigned_port :
    Unassigned 0x6F#8 b1 ↔ b1.toNat / 16 ∈ [0x2, 0x3, 0x5, 0x6, 0x7, 0xA, 0xB, 0xD, 0xE, 0xF] := by
  simp [Unassigned]

theorem unassigned_latch : Unassigned 0x63#8 b1 ↔ b1.toNat / 64 = 0 := by
  simp [Unassigned]

theorem unassigned_pair {b0 : Byte} (h : b0 ∈ [0x4C#8, 0x4E#8]) : Unassigned b0 b1 ↔ b1.toNat % 4 ≠ 0 := by
  simp only [List.mem_cons, List.not_mem_nil, or_false] at h
  obtain rfl | rfl := h <;> simp [Unassigned]

theorem unassigned_longBranch {b0 : Byte} (h : b0 ∈ [0x55#8, 0x57#8]) : Unassigned b0 b1 ↔ b1.toNat / 16 ≠ 0xC := by
  simp only [List.mem_cons, List.not_mem_nil, or_false] at h
  obtain rfl | rfl := h <;> simp [Unassigned]

end

/-! ### What a right answer of the decoder is -/

/-- A right answer of the decoder: a well-formed instruction with whose encoding the bytes begin, or an error on an
unassigned pattern. -/
inductive Answers (b0 b1 b2 : Byte) : Except DecodeError Instr → Prop
  | ok {i : Instr} (hw : i.wf = true) (henc : i.encode = [b0, b1, b2].take i.encode.length) (hb : ¬ Unassigned b0 b1) :
      Answers b0 b1 b2 (.ok i)
  | error {e : DecodeError} (hb : Unassigned b0 b1) : Answers b0 b1 b2 (.error e)

namespace Answers

variable {b0 b1 b2 : Byte} {i : Instr}

theorem two_bytes (hw : i.wf = true) (henc : i.encode = [b0, b1]) (hb : ¬ Unassigned b0 b1) :
    Answers b0 b1 b2 (.ok i) :=
  .ok hw (by rw [henc]; rfl) hb

theorem first_byte (hw : i.wf = true) (henc : i.encode = [b0]) (hb : b0 ∉ doubtfulFirst) :
    Answers b0 b1 b2 (.ok i) :=
  .ok hw (by rw [henc]; rfl) (mt mem_doubtfulFirst_of_unassigned hb)

theorem first_two_bytes (hw : i.wf = true) (henc : i.encode = [b0, b1]) (hb : b0 ∉ doubtfulFirst) :
    Answers b0 b1 b2 (.ok i) :=
  .two_bytes hw henc (mt mem_doubtfulFirst_of_unassigned hb)

theorem wf_and_encode_of_ok {r : Except DecodeError Instr} (h : Answers b0 b1 b2 r) (hr : r = .ok i) :
    i.wf = true ∧ i.encode = [b0, b1, b2].take i.encode.length := by
  subst hr
  cases h with
  | ok hw henc _ => exact ⟨hw, henc⟩

theorem error_iff {r : Except DecodeError Instr} (h : Answers b0 b1 b2 r) :
    (∃ e, r = .error e) ↔ Unassigned b0 b1 := by
  cases h with
  | ok _ _ hb => simp [hb]
  | error hb => simp [hb]

end Answers

/-! ### The groups of the opcode map -/

section
variable (b1 b2 : Byte)

/-- LDHL and EXHL: the first byte is that of `mk` (R101). -/
theorem decodePair_answers {b0 : Byte} (h : b0 ∈ [0x4C#8, 0x4E#8]) {mk : BitVec 6 → Instr}
    (hw : ∀ x, (mk x).wf = true) (henc : ∀ x, (mk x).encode = [b0, (x ++ 0#2 : Byte)]) :
    Answers b0 b1 b2 (decodePair mk b1) := by
  obtain ⟨x, c, rfl⟩ := exists_append (m := 6) (n := 2) b1
  have hun := unassigned_pair (x ++ c) h
  rw [show (4 : Nat) = 2 ^ 2 from rfl, toNat_append_mod] at hun
  by_cases hc : c = 0#2
  · rw [hc] at hun ⊢
    rw [decodePair_pair]
    exact .two_bytes (hw x) (henc x) (by rw [hun]; decide)
  · have hlo : lo2 (x ++ c) = c := BitVec.extractLsb'_append_eq_right
    rw [decodePair, hlo, if_neg hc]
    exact .error (hun.mpr fun h0 => hc (BitVec.eq_of_toNat_eq h0))

/-- SLBR: the first byte is that of `mk` (R109). -/
theorem decodeLongBranch_answers {b0 : Byte} (h : b0 ∈ [0x55#8, 0x57#8]) {mk : BitVec 12 → Instr}
    (hw : ∀ a, (mk a).wf = true)
    (henc : ∀ a, (mk a).encode = [b0, byteOf 0xC#4 (a.extractLsb' 8 4), a.extractLsb' 0 8]) :
    Answers b0 b1 b2 (decodeLongBranch mk b1 b2) := by
  obtain ⟨c, l, rfl⟩ := exists_byteOf b1
  have hun := unassigned_longBranch (byteOf c l) h
  rw [byteOf_toNat_div] at hun
  rw [decodeLongBranch, hi_byteOf, lo_byteOf]
  by_cases hc : c = 0xC#4
  · subst hc
    have hbytes := henc (l ++ b2)
    rw [BitVec.extractLsb'_append_eq_left, BitVec.extractLsb'_append_eq_right] at hbytes
    rw [if_pos rfl]
    exact .ok (hw _) (by rw [hbytes]; rfl) (by rw [hun]; decide)
  · rw [if_neg hc]
    exact .error (hun.mpr fun h0 => hc (BitVec.eq_of_toNat_eq h0))

theorem decodeLda_answers : Answers 0x6A#8 b1 b2 (decodeLda b1) := by
  unfold decodeLda
  split
  case h_11 => exact .first_two_bytes (by simp_all [Instr.wf, namesSpecial]) rfl (by decide)
  all_goals exact .first_two_bytes rfl rfl (by decide)

theorem decodeSta_answers : Answers 0x69#8 b1 b2 (decodeSta b1) := by
  unfold decodeSta
  split
  case h_11 => exact .first_two_bytes (by simp_all [Instr.wf, namesSpecial]) rfl (by decide)
  all_goals exact .first_two_bytes rfl rfl (by decide)

theorem decodeLatch_answers : Answers 0x63#8 b1 b2 (decodeLatch b1) := by
  obtain ⟨c, r, rfl⟩ := exists_append (m := 2) (n := 6) b1
  have hun := unassigned_latch (c ++ r)
  rw [show (64 : Nat) = 2 ^ 6 from rfl, toNat_append_div] at hun
  rw [decodeLatch, hi2_append, low6_append]
  revert hun
  apply forall_two_bits (v := c)
  case c0 => exact fun hun => .error (hun.mpr rfl)
  all_goals exact fun hun => .two_bytes rfl rfl (by rw [hun]; decide)

theorem decodeZeroPageBit_answers : Answers 0x6C#8 b1 b2 (decodeZeroPageBit b1) := by
  obtain ⟨c, b, y, rfl⟩ := exists_bit_fields b1
  rw [decodeZeroPageBit, hi2_fields, mid2_fields, lo_fields]
  apply forall_two_bits (v := c)
  all_goals exact .first_two_bytes rfl rfl (by decide)

theorem decodePortBit_answers : Answers 0x6D#8 b1 b2 (decodePortBit b1) := by
  obtain ⟨c, b, p, rfl⟩ := exists_bit_fields b1
  rw [decodePortBit, hi2_fields, mid2_fields, lo_fields]
  apply forall_two_bits (v := c)
  all_goals exact .first_two_bytes rfl rfl (by decide)

theorem decodeImmediate_answers : Answers 0x6E#8 b1 b2 (decodeImmediate b1) := by
  obtain ⟨h, k, rfl⟩ := exists_byteOf b1
  have hun := unassigned_immediate (byteOf h k)
  rw [byteOf_toNat_div] at hun
  rw [decodeImmediate, hi_byteOf, lo_byteOf]
  revert hun
  apply forall_nibble (v := h)
  case n0 | n2 | n8 | nA => exact fun hun => .error (hun.mpr (by decide))
  all_goals exact fun hun => .two_bytes rfl rfl (by rw [hun]; decide)

/-- The port number of five bits takes in the low bit of the upper half. -/
theorem port5_cut (p : Nibble) :
    (0#3 ++ (byteOf 0x0#4 p).extractLsb' 0 5 : Byte) = byteOf 0x0#4 p ∧
    (0#3 ++ (byteOf 0x1#4 p).extractLsb' 0 5 : Byte) = byteOf 0x1#4 p ∧
    (4#3 ++ (byteOf 0x8#4 p).extractLsb' 0 5 : Byte) = byteOf 0x8#4 p ∧
    (4#3 ++ (byteOf 0x9#4 p).extractLsb' 0 5 : Byte) = byteOf 0x9#4 p := by
  revert p; decide

theorem decodePort_answers : Answers 0x6F#8 b1 b2 (decodePort b1) := by
  obtain ⟨h, p, rfl⟩ := exists_byteOf b1
  have hun := unassigned_port (byteOf h p)
  rw [byteOf_toNat_div] at hun
  rw [decodePort, hi_byteOf, lo_byteOf]
  obtain ⟨h0, h1, h8, h9⟩ := port5_cut p
  revert hun
  apply forall_nibble (v := h)
  case n0 => exact fun hun => .two_bytes rfl (by rw [Instr.encode, h0]) (by rw [hun]; decide)
  case n1 => exact fun hun => .two_bytes rfl (by rw [Instr.encode, h1]) (by rw [hun]; decide)
  case n8 => exact fun hun => .two_bytes rfl (by rw [Instr.encode, h8]) (by rw [hun]; decide)
  case n9 => exact fun hun => .two_bytes rfl (by rw [Instr.encode, h9]) (by rw [hun]; decide)
  case n4 | nC => exact fun hun => .two_bytes rfl rfl (by rw [hun]; decide)
  all_goals exact fun hun => .error (hun.mpr (by decide))

/-! ### The rows of the opcode map -/

theorem lcall_encode (c : BitVec 3) : (Instr.lcall (c ++ b1)).encode = [0b01000#5 ++ c, b1] := by
  rw [Instr.encode, BitVec.extractLsb'_append_eq_left, BitVec.extractLsb'_append_eq_right]

theorem lbr_encode (l : Nibble) : (Instr.lbr (l ++ b1)).encode = [byteOf 0xC#4 l, b1] := by
  rw [Instr.encode, BitVec.extractLsb'_append_eq_left, BitVec.extractLsb'_append_eq_right]

theorem decode4_answers (l : Nibble) : Answers (byteOf 0x4#4 l) b1 b2 (decode4 (byteOf 0x4#4 l) b1) := by
  apply forall_nibble (v := l)
  case nC => exact decodePair_answers b1 b2 (by decide) (fun _ => rfl) fun _ => rfl
  case nE => exact decodePair_answers b1 b2 (by decide) (fun _ => rfl) fun _ => rfl
  case nD | nF => exact .first_byte rfl rfl (by decide)
  case n8 | n9 | nA | nB =>
    obtain ⟨k, y, rfl⟩ := exists_byteOf b1
    rw [decode4, lo_byteOf, hi_byteOf, lo_byteOf]
    exact .first_two_bytes rfl rfl (by decide)
  all_goals exact .first_two_bytes rfl (lcall_encode b1 _) (by decide)

theorem decode5_answers (l : Nibble) : Answers (byteOf 0x5#4 l) b1 b2 (decode5 (byteOf 0x5#4 l) b1 b2) := by
  apply forall_nibble (v := l)
  case n4 => exact .error (unassigned_of_single b1 (by decide))
  case n5 => exact decodeLongBranch_answers b1 b2 (by decide) (fun _ => rfl) fun _ => rfl
  case n7 => exact decodeLongBranch_answers b1 b2 (by decide) (fun _ => rfl) fun _ => rfl
  all_goals exact .first_byte rfl rfl (by decide)

theorem decode6_answers (l : Nibble) : Answers (byteOf 0x6#4 l) b1 b2 (decode6 (byteOf 0x6#4 l) b1) := by
  apply forall_nibble (v := l)
  case n3 => exact decodeLatch_answers b1 b2
  case n8 | nB => exact .first_two_bytes rfl rfl (by decide)
  case n9 => exact decodeSta_answers b1 b2
  case nA => exact decodeLda_answers b1 b2
  case nC => exact decodeZeroPageBit_answers b1 b2
  case nD => exact decodePortBit_answers b1 b2
  case nE => exact decodeImmediate_answers b1 b2
  case nF => exact decodePort_answers b1 b2
  all_goals exact .first_byte rfl rfl (by decide)

theorem decode7_answers (l : Nibble) : Answers (byteOf 0x7#4 l) b1 b2 (decode7 (byteOf 0x7#4 l)) := by
  apply forall_nibble (v := l)
  case n7 | nA => exact .error (unassigned_of_single b1 (by decide))
  all_goals exact .first_byte rfl rfl (by decide)

theorem decodeF_answers (l : Nibble) : Answers (byteOf 0xF#4 l) b1 b2 (.ok (decodeF (byteOf 0xF#4 l))) := by
  have hrow : ∀ l, (decodeF (byteOf 0xF#4 l)).wf = true ∧
      (decodeF (byteOf 0xF#4 l)).encode = [byteOf 0xF#4 l] ∧ byteOf 0xF#4 l ∉ doubtfulFirst := by decide
  obtain ⟨hw, henc, hb⟩ := hrow l
  exact .first_byte hw henc hb

/-- All patterns of R107 begin with a byte from 40h to 7Fh. -/
theorem not_mem_doubtfulFirst {h l : Nibble} (hh : h ∉ [0x4#4, 0x5#4, 0x6#4, 0x7#4]) :
    byteOf h l ∉ doubtfulFirst := by
  revert h l; decide

/-- First bytes 00h to 3Fh: SBR with its address in the first byte (R103). -/
theorem sbr_answers {h l : Nibble} (hh : h ∈ [0x0#4, 0x1#4, 0x2#4, 0x3#4]) :
    Answers (byteOf h l) b1 b2 (.ok (.sbr ((byteOf h l).extractLsb' 0 6))) := by
  have hbyte : 0#2 ++ (byteOf h l).extractLsb' 0 6 = byteOf h l ∧ byteOf h l ∉ doubtfulFirst := by
    revert h l; decide
  obtain ⟨henc, hb⟩ := hbyte
  exact .first_byte rfl (by rw [Instr.encode, henc]) hb

/-- The decoder is right on all bytes. -/
theorem decode_answers (b0 : Byte) : Answers b0 b1 b2 (decode b0 b1 b2) := by
  obtain ⟨h, l, rfl⟩ := exists_byteOf b0
  rw [decode, hi_byteOf, lo_byteOf]
  apply forall_nibble (v := h)
  case n0 | n1 | n2 | n3 => exact sbr_answers b1 b2 (by decide)
  case n4 => exact decode4_answers b1 b2 l
  case n5 => exact decode5_answers b1 b2 l
  case n6 => exact decode6_answers b1 b2 l
  case n7 => exact decode7_answers b1 b2 l
  case nC => exact .first_two_bytes rfl (lbr_encode b1 l) (not_mem_doubtfulFirst (by decide))
  case nF => exact decodeF_answers b1 b2 l
  all_goals exact .first_byte rfl rfl (not_mem_doubtfulFirst (by decide))

/-- Bytes that begin with a well-formed instruction's encoding decode to that instruction. -/
theorem decode_of_encode_take {b0 : Byte} {i : Instr} (hw : i.wf = true)
    (h : i.encode = [b0, b1, b2].take i.encode.length) : decode b0 b1 b2 = .ok i := by
  have hbytes := List.take_append_drop i.encode.length [b0, b1, b2]
  rw [← h] at hbytes
  have hdec := decode_encode_append i hw ([b0, b1, b2].drop i.encode.length)
  rwa [hbytes] at hdec

end

/-- Settles O38: the answer of the decoder is right on all bytes, and an encoding they begin with is read back. -/
theorem decodeIsEncodeReversed : Obligations.DecodeIsEncodeReversed := by
  refine ⟨fun b0 b1 b2 i => ⟨fun hdec => ?_, fun ⟨hw, henc⟩ => ?_⟩, fun b0 b1 b2 => ?_⟩
  · exact (decode_answers b1 b2 b0).wf_and_encode_of_ok hdec
  · exact decode_of_encode_take b1 b2 hw henc
  · exact (decode_answers b1 b2 b0).error_iff

end Sys2Proof.Machine
end

section
/-! The ALU and the accesses to data memory as equations of the next state: the flags of sums, differences and
compares, what is read at a RAM address, and an instruction that stores one nibble there. -/

namespace Sys2Proof.Machine

variable {s : State}

/-! ### Results and their flags -/

@[simp] theorem add4_val (a b : Nibble) : (add4 a b false).val = a + b := by
  revert a b; decide

@[simp] theorem sub4_val (a b : Nibble) : (sub4 a b false).val = a - b := by
  revert a b; decide

theorem add4_no_carry (a b : Nibble) : (!(add4 a b false).carry) = decide (a.toNat + b.toNat < 16) := by
  simp [add4, ← decide_not]

/-- A difference is 0 when the two are equal, and nothing is borrowed when the minuend is large enough (R11). -/
theorem sub4_flags (a b : Nibble) :
    isZero (sub4 a b false).val = (a == b) ∧ (sub4 a b false).carry = decide (b.toNat ≤ a.toNat) := by
  refine ⟨?_, rfl⟩
  revert a b; decide

theorem flagsAdd_add4 (a b : Nibble) (s : State) :
    s.flagsAdd (add4 a b false) = { s with zf := a + b == 0#4, sf := decide (a.toNat + b.toNat < 16) } := by
  rw [State.flagsAdd, add4_no_carry, add4_val]
  rfl

theorem flagsSub_sub4 (a b : Nibble) (s : State) :
    s.flagsSub (sub4 a b false) = { s with zf := a == b, sf := decide (b.toNat ≤ a.toNat) } := by
  obtain ⟨hzero, hcarry⟩ := sub4_flags a b
  rw [State.flagsSub, hzero, hcarry]
  rfl

theorem compareEq_eq (len : Nat) (a b : Nibble) (s : State) :
    compareEq len a b s =
      { s with cf := decide (b.toNat ≤ a.toNat), zf := a == b, sf := a != b, pc := s.nextPc len } := by
  obtain ⟨hzero, hcarry⟩ := sub4_flags a b
  rw [compareEq, State.flagsCompare, State.flagsLogic, hzero, hcarry]
  rfl

/-- The flags of a count up, read off the nibble before it. -/
theorem count_up_flags (v : Nibble) :
    (v + 1#4 == 0#4) = (v == 0xF#4) ∧ decide (v.toNat + (1#4).toNat < 16) = (v != 0xF#4) := by
  revert v; decide

/-- The flag SF of a count down, read off the nibble before it. -/
theorem count_down_no_borrow (v : Nibble) : decide ((1#4).toNat ≤ v.toNat) = (v != 0#4) := by
  revert v; decide

/-! ### Reads at RAM addresses -/

theorem withHl_of_ram (k : Nibble → Res) (h : IsRam s.eaHl) : withHl s k = k (s.peek s.eaHl) := by
  rw [withHl, readData_of_ram s (isSpecialArea_of_isRam h), onOk_ok]

theorem readDirect_of_ram {x : Byte} (h : IsRam (s.eaDir x)) : readDirect x s = .ok (s.peek (s.eaDir x)) :=
  if_neg (by simp [isSpecialArea_of_isRam h])

theorem writeDirect_of_ram {x : Byte} (v : Nibble) (h : IsRam (s.eaDir x)) :
    writeDirect x v s = .ok (s.poke (s.eaDir x) v) :=
  if_neg (by simp [isSpecialArea_of_isRam h])

/-- No pair of LDHL and EXHL reaches from RAM into the special area (R80). -/
theorem isRam_pairHigh {x : BitVec 6} (h : IsRam (s.eaDir (pairLow x))) : IsRam (s.eaDir (pairHigh x)) := by
  unfold IsRam State.eaDir pairLow pairHigh at *
  simp only [toNat_append_eq, BitVec.toNat_ofNat] at *
  omega

/-! ### Stores at RAM addresses -/

section
variable {a : DataAddr} {v : Nibble}

/-- An instruction that stores one nibble and then updates by `g` what is no memory: the nibble is stored and the
rest of the next state is that of `g`. -/
theorem exists_next_of_store {r : Res} {g : State → State} (hr : r = .next (g (s.poke a v)))
    (hg : ∀ ram stack, g { s with ram := ram, stack := stack } = { g s with ram := ram, stack := stack })
    (hopts : (g s).opts = s.opts) :
    ∃ t, r = .next t ∧ StoredOnly a v s t ∧ t = { g s with ram := t.ram, stack := t.stack } := by
  have ht := hg (s.poke a v).ram (s.poke a v).stack
  rw [← State.poke_eq] at ht
  rw [ht] at hr
  exact ⟨_, hr, storedOnly_of_poke rfl rfl hopts, rfl⟩

theorem onOk_writeData_of_ram (k : State → Res) (h : isSpecialArea a = false) :
    onOk (writeData a v s) k = k (s.poke a v) := by
  rw [writeData_of_ram v s h, onOk_ok]

theorem updateData_of_ram (len : Nat) (f : Nibble → Alu) (g : State → Alu → State) (h : isSpecialArea a = false) :
    updateData a len f g s = .next ((g (s.poke a (f (s.peek a)).val) (f (s.peek a))).advance len) := by
  rw [updateData, readData_of_ram s h, onOk_ok, onOk_writeData_of_ram _ h]

theorem storeThenStep_of_ram (r : Alu) (g : State → Alu → State) (h : IsRam s.eaHl) :
    storeThenStep v r g s = .next ((g ((s.poke s.eaHl v).setLr r.val) r).advance 1) :=
  onOk_writeData_of_ram _ (isSpecialArea_of_isRam h)

end

end Sys2Proof.Machine
end

section
/-! Data transfer and the zero page: the instructions that load a register, the loads from and the stores to RAM,
and the arithmetic on a nibble of the zero page (R131 to R146, R154, R211). -/

namespace Sys2Proof.Machine

variable {s : State}

/-! ### Encodings -/

/-- LDA x and STA x keep their own spelling outside the second bytes of group 14 (R106). -/
theorem namesSpecial_of_not_mem {x : Byte} (h : x ∉ specialBytes) : namesSpecial x = false := by
  simpa [specialBytes, namesSpecial, and_assoc] using h

theorem coded_lda {x : Byte} (h : x ∉ specialBytes) : Coded [0x6A#8, x] 2 (.lda x) :=
  coded_of_wf (i := .lda x) (by rw [Instr.wf, namesSpecial_of_not_mem h]; rfl)

theorem coded_sta {x : Byte} (h : x ∉ specialBytes) : Coded [0x69#8, x] 2 (.sta x) :=
  coded_of_wf (i := .sta x) (by rw [Instr.wf, namesSpecial_of_not_mem h]; rfl)

/-! ### Stores -/

/-- STAMI and STDMI: the store goes to the address of the old LR, then LR counts up (R142, R144). -/
theorem storeThenStep_up (v : Nibble) (h : IsRam s.eaHl) :
    ∃ t, storeThenStep v (add4 s.lr 1#4 false) State.flagsAdd s = .next t ∧ StoredOnly s.eaHl v s t ∧
      t = { s with
        ram := t.ram, stack := t.stack, lr := s.lr + 1#4, zf := s.lr == 0xF#4, sf := s.lr != 0xF#4,
        pc := s.pc + 1#13 } := by
  obtain ⟨hzero, hno_carry⟩ := count_up_flags s.lr
  refine exists_next_of_store (g := fun u => State.advance
    { u with lr := s.lr + 1#4, zf := s.lr == 0xF#4, sf := s.lr != 0xF#4 } 1) ?_ (fun _ _ => rfl) rfl
  rw [storeThenStep_of_ram _ _ h, flagsAdd_add4, add4_val, hzero, hno_carry]
  rfl

/-- STAMD: the store goes to the address of the old LR, then LR counts down (R141). -/
theorem storeThenStep_down (v : Nibble) (h : IsRam s.eaHl) :
    ∃ t, storeThenStep v (sub4 s.lr 1#4 false) State.flagsSub s = .next t ∧ StoredOnly s.eaHl v s t ∧
      t = { s with
        ram := t.ram, stack := t.stack, lr := s.lr - 1#4, zf := s.lr == 1#4, sf := s.lr != 0#4,
        pc := s.pc + 1#13 } := by
  refine exists_next_of_store (g := fun u => State.advance
    { u with lr := s.lr - 1#4, zf := s.lr == 1#4, sf := s.lr != 0#4 } 1) ?_ (fun _ _ => rfl) rfl
  rw [storeThenStep_of_ram _ _ h, flagsSub_sub4, sub4_val, count_down_no_borrow]
  rfl

/-- STAM and STD: a store with the columns `- - 1` (R140, R143). -/
theorem writeData_flagsSet {a : DataAddr} (v : Nibble) (len : Nat) (h : isSpecialArea a = false) :
    ∃ t, onOk (writeData a v s) (fun u => .next (u.flagsSet.advance len)) = .next t ∧ StoredOnly a v s t ∧
      t = { s with ram := t.ram, stack := t.stack, sf := true, pc := s.nextPc len } :=
  exists_next_of_store (g := fun u => u.flagsSet.advance len) (onOk_writeData_of_ram _ h) (fun _ _ => rfl) rfl

/-- STA x outside the special area (R139). -/
theorem storeDirect_of_ram {x : Byte} (h : IsRam (s.eaDir x)) :
    storeDirect x s = .next ((s.poke (s.eaDir x) s.acc).flagsSet.advance 2) := by
  rw [storeDirect, writeDirect_of_ram _ h, onOk_ok]

/-- Settles O16: STAM and STA x store and set SF, the three LR forms store first and then count LR. -/
theorem storesToRam : Obligations.StoresToRam := by
  refine ⟨⟨coded_of_wf (i := .stam) rfl, coded_of_wf (i := .stamd) rfl, coded_of_wf (i := .stami) rfl,
    fun k => coded_of_wf (i := .stdmi k) rfl, fun x hx => coded_sta hx⟩, fun s h => ⟨?_, ?_, ?_, fun k => ?_⟩,
    fun s x h => ?_⟩
  · exact writeData_flagsSet s.acc 1 (isSpecialArea_of_isRam h)
  · exact storeThenStep_down s.acc h
  · exact storeThenStep_up s.acc h
  · exact storeThenStep_up k h
  · exact exists_next_of_store (g := fun u => u.flagsSet.advance 2) (storeDirect_of_ram h) (fun _ _ => rfl) rfl

/-! ### Loads -/

/-- Settles O1: each loads a constant or a register into another. -/
theorem registerLoads : Obligations.RegisterLoads := by
  refine fun s k => ⟨⟨coded_of_wf (i := .ldia k) rfl, ?_⟩, ⟨coded_of_wf (i := .ldh k) rfl, ?_⟩,
    ⟨coded_of_wf (i := .ldl k) rfl, ?_⟩, ⟨coded_of_wf (i := .tha) rfl, ?_⟩, ⟨coded_of_wf (i := .tla) rfl, ?_⟩⟩
  all_goals rfl

theorem exec_ldhl_of_ram {x : BitVec 6} (h : IsRam (s.eaDir (pairLow x))) :
    exec (.ldhl x) s = .next (((s.setLr (s.peek (s.eaDir (pairLow x)))).setHr
      (s.peek (s.eaDir (pairHigh x)))).flagsSet.advance 2) := by
  have hlow := readData_of_ram s (isSpecialArea_of_isRam h)
  have hhigh := readData_of_ram s (isSpecialArea_of_isRam (isRam_pairHigh h))
  rw [exec, execLdhl, hlow, onOk_ok, hhigh, onOk_ok]

/-- Settles O13: the nibbles read are those that RAM shows. -/
theorem loadsFromRam : Obligations.LoadsFromRam := by
  refine ⟨⟨coded_of_wf (i := .ldam) rfl, fun x hx => coded_lda hx, fun x => coded_of_wf (i := .ldhl x) rfl⟩,
    fun s m h hm => ?_, fun s x m h hm => ?_, fun s x h => exec_ldhl_of_ram h⟩
  · rw [exec, execLdam, withHl_of_ram _ h, hm]
    rfl
  · rw [exec, execLda, loadDirect, readDirect_of_ram h, hm]
    rfl

/-! ### The zero page -/

/-- ADD #k,y at a nibble that reads `m` (R154). -/
theorem exec_add_of_peek {k y m : Nibble} (hm : s.peek (eaZp y) = m) :
    ∃ t, exec (.add k y) s = .next t ∧ StoredOnly (eaZp y) (m + k) s t ∧
      t = { s with
        ram := t.ram, stack := t.stack, zf := m + k == 0#4, sf := decide (m.toNat + k.toNat < 16),
        pc := s.pc + 2#13 } := by
  refine exists_next_of_store (g := fun u => State.advance
    { u with zf := m + k == 0#4, sf := decide (m.toNat + k.toNat < 16) } 2) ?_ (fun _ _ => rfl) rfl
  rw [exec, execAdd, updateData_of_ram _ _ _ (eaZp_not_special y), hm, flagsAdd_add4, add4_val]

/-- Settles O11: the zero page lies outside the special area, so that each access finds RAM (R77). -/
theorem zeroPageArithmetic : Obligations.ZeroPageArithmetic := by
  refine fun s k y m hm => ⟨⟨coded_of_wf (i := .std k y) rfl, ?_⟩, ⟨coded_of_wf (i := .add k y) rfl, ?_⟩,
    ⟨coded_of_wf (i := .cmp k y) rfl, ?_⟩⟩
  · exact writeData_flagsSet k 2 (eaZp_not_special y)
  · exact exec_add_of_peek hm
  · have hread : readData (eaZp y) s = .ok m := hm ▸ readData_of_ram s (eaZp_not_special y)
    rw [exec, execCmp, hread, onOk_ok, compareEq_eq]
    rfl

end Sys2Proof.Machine
end

section
/-! The read-modify-write instructions on RAM[HL]: one nibble is read, stored back and described by the flags (R89,
R159, R162, R165, R168, R183, R186, R222, R226). -/

namespace Sys2Proof.Machine

variable {s : State} {a : DataAddr} {m v : Nibble} {f : Nibble → Alu}

/-- A read-modify-write at a nibble that reads `m`, with flags that describe the result. -/
theorem updateData_of_peek {g : State → Alu → State} {zero status : Bool} (len : Nat) (ha : isSpecialArea a = false)
    (hm : s.peek a = m) (hv : (f m).val = v) (hg : ∀ u, g u (f m) = { u with zf := zero, sf := status }) :
    ∃ t, updateData a len f g s = .next t ∧ StoredOnly a v s t ∧
      t = { s with ram := t.ram, stack := t.stack, zf := zero, sf := status, pc := s.nextPc len } := by
  refine exists_next_of_store (g := fun u => State.advance { u with zf := zero, sf := status } len) ?_
    (fun _ _ => rfl) rfl
  rw [updateData_of_ram _ _ _ ha, hm, hg, hv]

/-- A read-modify-write with the columns `- - 1`. -/
theorem updateData_setFlags_of_peek (len : Nat) (ha : isSpecialArea a = false) (hm : s.peek a = m) :
    ∃ t, updateData a len f setFlags s = .next t ∧ StoredOnly a (f m).val s t ∧
      t = { s with ram := t.ram, stack := t.stack, sf := true, pc := s.nextPc len } := by
  refine exists_next_of_store (g := fun u => u.flagsSet.advance len) ?_ (fun _ _ => rfl) rfl
  rw [updateData_of_ram _ _ _ ha, hm]
  rfl

/-- A bit set or cleared in a nibble that reads `m`: the stored nibble has the bit `x`, its other bits are those of
`m` (R221). -/
theorem updateData_bit_of_peek {h : Nibble → Nibble} {n : Nat} {x : Bool} (len : Nat) (ha : isSpecialArea a = false)
    (hm : s.peek a = m) (hbit : ∀ c, c < 4 → (h m).getLsbD c = if c = n then x else m.getLsbD c) :
    ∃ t v, updateData a len (fun m => logic (h m)) setFlags s = .next t ∧ StoredOnly a v s t ∧
      (∀ c, c < 4 → v.getLsbD c = if c = n then x else m.getLsbD c) ∧
      t = { s with ram := t.ram, stack := t.stack, sf := true, pc := s.nextPc len } := by
  obtain ⟨t, hnext, hstored, ht⟩ := updateData_setFlags_of_peek len (f := fun m => logic (h m)) ha hm
  exact ⟨t, h m, hnext, hstored, hbit, ht⟩

/-- Settles O17: each is a read-modify-write at the address of HL, with the flags of a sum, of a difference, of a
logical result, or with SF set. -/
theorem readModifyWrites : Obligations.ReadModifyWrites := by
  refine ⟨⟨coded_of_wf (i := .incm) rfl, coded_of_wf (i := .decm) rfl,
    fun k => ⟨coded_of_wf (i := .addm k) rfl, coded_of_wf (i := .subm k) rfl, coded_of_wf (i := .andm k) rfl,
      coded_of_wf (i := .orm k) rfl⟩,
    fun b => ⟨coded_of_wf (i := .clm b) rfl, coded_of_wf (i := .sem b) rfl⟩⟩, fun s m h hm => ?_⟩
  have ha := isSpecialArea_of_isRam h
  obtain ⟨hup_zero, hup_no_carry⟩ := count_up_flags m
  refine ⟨fun k => ?addm, ?incm, ?decm, fun k => ?subm, fun k => ?andm, fun k => ?orm, fun b => ?clm, fun b => ?sem⟩
  case addm => exact updateData_of_peek 2 ha hm (add4_val m k) (flagsAdd_add4 m k)
  case incm =>
    exact updateData_of_peek 1 ha hm (add4_val m 1#4) fun u => by rw [flagsAdd_add4, hup_zero, hup_no_carry]
  case decm =>
    exact updateData_of_peek 1 ha hm (sub4_val m 1#4) fun u => by rw [flagsSub_sub4, count_down_no_borrow]
  case subm => exact updateData_of_peek 2 ha hm (sub4_val k m) (flagsSub_sub4 k m)
  case andm => exact updateData_of_peek 2 ha hm rfl fun _ => rfl
  case orm => exact updateData_of_peek 2 ha hm rfl fun _ => rfl
  case clm => exact updateData_bit_of_peek 1 ha hm fun _ hc => clearBit_getLsbD m b hc
  case sem => exact updateData_bit_of_peek 1 ha hm fun _ hc => setBit_getLsbD m b hc

end Sys2Proof.Machine
end

section
/-! Rotates, and arithmetic on the registers and the accumulator (R151 to R153, R155 to R158, R160, R161, R163, R164,
R166, R167). -/

namespace Sys2Proof.Machine

variable {s : State}

/-! ### Arithmetic on registers -/

/-- Settles O2: each puts a sum or a difference into its register, with the flags of that result. -/
theorem registerArithmetic : Obligations.RegisterArithmetic := by
  intro s k
  refine ⟨⟨coded_of_wf (i := .adda k) rfl, ?adda⟩, ⟨coded_of_wf (i := .addh k) rfl, ?addh⟩,
    ⟨coded_of_wf (i := .addl k) rfl, ?addl⟩, ⟨coded_of_wf (i := .inca) rfl, ?inca⟩,
    ⟨coded_of_wf (i := .incl) rfl, ?incl⟩, ⟨coded_of_wf (i := .suba k) rfl, ?suba⟩,
    ⟨coded_of_wf (i := .decl) rfl, ?decl⟩⟩
  case adda =>
    rw [exec, execAdda, flagsAdd_add4, add4_val]
    rfl
  case addh =>
    rw [exec, execAddh, flagsAdd_add4, add4_val]
    rfl
  case addl =>
    rw [exec, execAddl, flagsAdd_add4, add4_val]
    rfl
  case inca =>
    rw [exec, execInca, flagsAdd_add4, add4_val, (count_up_flags s.acc).2]
    rfl
  case incl =>
    rw [exec, execIncl, flagsAdd_add4, add4_val, (count_up_flags s.lr).2]
    rfl
  case suba =>
    rw [exec, execSuba, flagsSub_sub4, sub4_val]
    rfl
  case decl =>
    rw [exec, execDecl, flagsSub_sub4, sub4_val, count_down_no_borrow]
    rfl

/-! ### Rotates -/

/-- RLCA moves every bit of Acc one place up and CF to bit 0, as numbers (R151). -/
theorem rotateLeft_toNat (v : Nibble) (cf : Bool) : (rotateLeft v cf).val.toNat = (2 * v.toNat + cf.toNat) % 16 := by
  revert v cf; decide

/-- RRCA moves every bit of Acc one place down and CF to bit 3, as numbers (R152). -/
theorem rotateRight_toNat (v : Nibble) (cf : Bool) : (rotateRight v cf).val.toNat = 8 * cf.toNat + v.toNat / 2 := by
  revert v cf; decide

/-- Acc and CF, the five bits that RLCA and RRCA turn. -/
def State.ring (s : State) : Nibble × Bool := (s.acc, s.cf)

/-- The ring of five bits turned left by one place. -/
def turnLeft (r : Nibble × Bool) : Nibble × Bool := ((rotateLeft r.1 r.2).val, (rotateLeft r.1 r.2).carry)

theorem exec_rlca_ring (s : State) : ∃ t, exec .rlca s = .next t ∧ t.ring = turnLeft s.ring :=
  ⟨_, rfl, rfl⟩

theorem execAll_replicate_rlca_ring (n : Nat) (s : State) :
    ∃ t, execAll (List.replicate n .rlca) s = .next t ∧ t.ring = turnLeft^[n] s.ring := by
  induction n generalizing s with
  | zero => exact ⟨s, rfl, rfl⟩
  | succ n ih =>
    obtain ⟨u, hu, hring⟩ := exec_rlca_ring s
    obtain ⟨t, ht, hturns⟩ := ih u
    refine ⟨t, ?_, by rw [hturns, hring, Function.iterate_succ_apply]⟩
    rw [List.replicate_succ, execAll, hu]
    exact ht

/-- A ring of five bits is as it was after five turns. -/
theorem turnLeft_five (r : Nibble × Bool) : turnLeft^[5] r = r := by
  revert r; decide

/-- Settles O3: RLCA turns the ring of Acc and CF, which five turns restore. -/
theorem rotates : Obligations.Rotates := by
  refine ⟨⟨coded_of_wf (i := .rlca) rfl, coded_of_wf (i := .rrca) rfl⟩,
    fun s => ⟨(rotateLeft s.acc s.cf).val, rfl, rotateLeft_toNat s.acc s.cf⟩,
    fun s => ⟨(rotateRight s.acc s.cf).val, rfl, rotateRight_toNat s.acc s.cf⟩, fun s => ?_⟩
  obtain ⟨t, ht, hring⟩ := execAll_replicate_rlca_ring 5 s
  rw [turnLeft_five] at hring
  exact ⟨t, ht, congrArg Prod.fst hring, congrArg Prod.snd hring⟩

/-! ### Arithmetic on the accumulator -/

theorem add4_toNat (a b : Nibble) (cin : Bool) : (add4 a b cin).val.toNat = (a.toNat + b.toNat + cin.toNat) % 16 :=
  BitVec.toNat_ofNat _ 4

theorem add4_cin_no_carry (a b : Nibble) (cin : Bool) :
    (!(add4 a b cin).carry) = decide (a.toNat + b.toNat + cin.toNat < 16) := by
  simp [add4, ← decide_not]

/-- The difference with a pending borrow where CF is 0, as numbers: adding 32 keeps it from being negative (R167). -/
theorem sub4_not_toNat (a b : Nibble) (cf : Bool) :
    (sub4 a b (!cf)).val.toNat = (a.toNat + 31 + cf.toNat - b.toNat) % 16 := by
  revert a b cf; decide

/-- Nothing is borrowed where the minuend and CF together exceed the subtrahend (R167). -/
theorem sub4_not_carry (a b : Nibble) (cf : Bool) :
    (sub4 a b (!cf)).carry = decide (b.toNat + 1 ≤ a.toNat + cf.toNat) := by
  revert a b cf; decide

theorem sub4_one_carry (v : Nibble) : (sub4 v 1#4 false).carry = (v != 0#4) :=
  count_down_no_borrow v

theorem flagsAddCarry_add4 (a b : Nibble) (cin : Bool) (s : State) :
    s.flagsAddCarry (add4 a b cin) = { s with
      cf := decide (16 ≤ a.toNat + b.toNat + cin.toNat), zf := (add4 a b cin).val == 0#4,
      sf := decide (a.toNat + b.toNat + cin.toNat < 16) } := by
  rw [State.flagsAddCarry, State.flagsAdd, add4_cin_no_carry]
  rfl

theorem flagsSubCarry_sub4 (a b : Nibble) (cf : Bool) (s : State) :
    s.flagsSubCarry (sub4 a b (!cf)) = { s with
      cf := decide (b.toNat + 1 ≤ a.toNat + cf.toNat), zf := (sub4 a b (!cf)).val == 0#4,
      sf := decide (b.toNat + 1 ≤ a.toNat + cf.toNat) } := by
  rw [State.flagsSubCarry, State.flagsSub, sub4_not_carry]
  rfl

/-- The C cell printed as a bullet writes CF or keeps it, as the parameter says (D31). -/
theorem bulletCarry_eq (s : State) (r : Alu) :
    s.bulletCarry r = { s with cf := if s.opts.bulletCWritesCF then r.carry else s.cf } := by
  unfold State.bulletCarry
  split <;> rfl

/-- Settles O14: a sum or a difference of Acc, in which ADCAM and SBCAM count CF and ADDAM and DECA do not. -/
theorem accumulatorArithmetic : Obligations.AccumulatorArithmetic := by
  refine ⟨⟨coded_of_wf (i := .adcam) rfl, coded_of_wf (i := .sbcam) rfl, coded_of_wf (i := .addam) rfl,
    coded_of_wf (i := .deca) rfl⟩, fun s m h hm => ⟨?adcam, ?sbcam, ?addam⟩, fun s => ?deca⟩
  case adcam =>
    refine ⟨(add4 s.acc m s.cf).val, add4_toNat s.acc m s.cf, ?_⟩
    rw [exec, execAdcam, withHl_of_ram _ h, hm]
    dsimp only
    rw [flagsAddCarry_add4]
    rfl
  case sbcam =>
    refine ⟨(sub4 m s.acc (!s.cf)).val, sub4_not_toNat m s.acc s.cf, ?_⟩
    rw [exec, execSbcam, withHl_of_ram _ h, hm]
    dsimp only
    rw [flagsSubCarry_sub4]
    rfl
  case addam =>
    rw [exec, execAddam, withHl_of_ram _ h, hm]
    dsimp only
    rw [bulletCarry_eq, flagsAdd_add4, add4_val]
    rfl
  case deca =>
    rw [exec, execDeca, bulletCarry_eq, flagsSub_sub4, sub4_val, count_down_no_borrow, sub4_one_carry]
    rfl

end Sys2Proof.Machine
end

section
/-! Logic in Acc, compares with RAM, and the test of a bit of RAM: the instructions that read at most one nibble of
data memory and store none (R181, R182, R184, R185, R187, R212, R213, R232). -/

namespace Sys2Proof.Machine

variable {s : State}

/-! ### Results -/

theorem logicAcc_eq (len : Nat) (v : Nibble) (s : State) :
    logicAcc len v s = { s with acc := v, zf := v == 0#4, sf := v != 0#4, pc := s.nextPc len } := rfl

/-- XORAM tests Acc and the nibble for equality (R187). -/
theorem xor_beq_zero (a b : Nibble) : (a ^^^ b == 0#4) = (a == b) := by
  rw [Bool.eq_iff_iff, beq_iff_eq, beq_iff_eq, BitVec.xor_eq_zero_iff]

/-! ### Reads of one nibble -/

/-- An instruction on RAM[HL] goes on with the nibble that RAM shows there. -/
theorem withHl_of_peek {m : Nibble} (k : Nibble → Res) (h : IsRam s.eaHl) (hm : s.peek s.eaHl = m) :
    withHl s k = k m := by
  rw [withHl_of_ram k h, hm]

theorem exec_cmpa_of_ram {x : Byte} (h : IsRam (s.eaDir x)) :
    exec (.cmpa x) s = .next (compareEq 2 (s.peek (s.eaDir x)) s.acc s) := by
  rw [exec, execCmpa, readData_of_ram s (isSpecialArea_of_isRam h), onOk_ok]

/-! ### The obligations -/

/-- Settles O4: each puts a logical result into Acc, and the flags describe it. -/
theorem logicImmediate : Obligations.LogicImmediate := by
  refine fun s k => ⟨⟨coded_of_wf (i := .anda k) rfl, ?anda⟩, ⟨coded_of_wf (i := .ora k) rfl, ?ora⟩⟩
  case anda =>
    rw [exec, execAnda, logicAcc_eq]
    rfl
  case ora =>
    rw [exec, execOra, logicAcc_eq]
    rfl

/-- Settles O15: at a RAM address the one nibble read goes to a logical result, a compare or a bit test, and none of
these stores. -/
theorem readersOfRam : Obligations.ReadersOfRam := by
  refine ⟨⟨coded_of_wf (i := .andam) rfl, coded_of_wf (i := .oram) rfl, coded_of_wf (i := .xoram) rfl,
    coded_of_wf (i := .cmpam) rfl, fun b => coded_of_wf (i := .tfm b) rfl, fun x => coded_of_wf (i := .cmpa x) rfl⟩,
    fun s m h hm => ⟨?andam, ?oram, ?xoram, ?cmpam, fun b => ?tfm⟩, fun s x m h hm => ?cmpa⟩
  case andam =>
    rw [exec, execAndam, withHl_of_peek _ h hm, logicAcc_eq]
    rfl
  case oram =>
    rw [exec, execOram, withHl_of_peek _ h hm, logicAcc_eq]
    rfl
  case xoram =>
    rw [exec, execXoram, withHl_of_peek _ h hm, logicAcc_eq, bne, xor_beq_zero]
    rfl
  case cmpam =>
    rw [exec, execCmpam, withHl_of_peek _ h hm, compareEq_eq]
    rfl
  case tfm =>
    rw [exec, execTfm, withHl_of_peek _ h hm]
    rfl
  case cmpa =>
    rw [exec_cmpa_of_ram h, hm, compareEq_eq]
    rfl

end Sys2Proof.Machine
end

section
/-! The exchanges of Acc and of HL with a register or with RAM: both sides are read before either is written (R191
to R195). -/

namespace Sys2Proof.Machine

variable {s : State}

/-! ### Exchanges of registers -/

theorem loadAcc_eq (len : Nat) (v : Nibble) (s : State) :
    loadAcc len v s = { s with acc := v, zf := v == 0#4, sf := true, pc := s.nextPc len } := rfl

/-- Settles O7: the register takes Acc, and what it held is loaded into Acc. -/
theorem registerExchanges : Obligations.RegisterExchanges := by
  refine fun s => ⟨⟨coded_of_wf (i := .exah) rfl, ?exah⟩, ⟨coded_of_wf (i := .exal) rfl, ?exal⟩⟩
  case exah =>
    rw [exec, execExah, loadAcc_eq]
    rfl
  case exal =>
    rw [exec, execExal, loadAcc_eq]
    rfl

/-! ### Exchanges of Acc with RAM -/

/-- EXAM and EXA: Acc is stored and what the nibble read before is loaded into Acc (R191, R194). -/
theorem exchangeData_of_ram {a : DataAddr} (len : Nat) (h : IsRam a) :
    ∃ t, exchangeData a len s = .next t ∧ StoredOnly a s.acc s t ∧
      t = { s with
        ram := t.ram, stack := t.stack, acc := s.peek a, zf := s.peek a == 0#4, sf := true,
        pc := s.nextPc len } := by
  have ha := isSpecialArea_of_isRam h
  refine exists_next_of_store (g := loadAcc len (s.peek a)) ?_ (fun _ _ => rfl) rfl
  rw [exchangeData, readData_of_ram s ha, onOk_ok, onOk_writeData_of_ram _ ha]

/-! ### The exchange of HL with two nibbles of RAM -/

/-- The two addresses of LDHL and EXHL differ in bit 0 (R80). -/
theorem eaDir_pairLow_ne_pairHigh (s : State) (x : BitVec 6) : s.eaDir (pairLow x) ≠ s.eaDir (pairHigh x) := by
  intro h
  have hnat := congrArg BitVec.toNat h
  simp only [State.eaDir, pairLow, pairHigh, toNat_append_eq, BitVec.toNat_ofNat] at hnat
  omega

/-- An instruction that stores two nibbles and then updates by `g` what is no memory. -/
theorem exists_next_of_store_pair {a b : DataAddr} {v w : Nibble} {r : Res} {g : State → State} (hab : a ≠ b)
    (hr : r = .next (g ((s.poke a v).poke b w)))
    (hg : ∀ ram stack, g { s with ram := ram, stack := stack } = { g s with ram := ram, stack := stack })
    (hopts : (g s).opts = s.opts) :
    ∃ t, r = .next t ∧ StoredOnlyPair a v b w s t ∧ t = { g s with ram := t.ram, stack := t.stack } := by
  have hpoke : (s.poke a v).poke b w =
      { s with ram := ((s.poke a v).poke b w).ram, stack := ((s.poke a v).poke b w).stack } := by
    rw [State.poke_eq (s.poke a v), State.poke_eq s]
  rw [hpoke, hg] at hr
  exact ⟨_, hr, storedOnlyPair_of_poke hab rfl rfl hopts, rfl⟩

/-- EXHL: the two reads see the memory before the two stores (R195). -/
theorem exec_exhl_of_ram {x : BitVec 6} (h : IsRam (s.eaDir (pairLow x))) :
    exec (.exhl x) s = .next (((((s.poke (s.eaDir (pairLow x)) s.lr).poke (s.eaDir (pairHigh x)) s.hr).setLr
      (s.peek (s.eaDir (pairLow x)))).setHr (s.peek (s.eaDir (pairHigh x)))).flagsSet.advance 2) := by
  have hlow := isSpecialArea_of_isRam h
  have hhigh := isSpecialArea_of_isRam (isRam_pairHigh h)
  rw [exec, execExhl, readData_of_ram s hlow, onOk_ok, readData_of_ram s hhigh, onOk_ok,
    onOk_writeData_of_ram _ hlow, onOk_writeData_of_ram _ hhigh]

/-- Settles O18: EXAM and EXA exchange Acc with one nibble of RAM, EXHL exchanges HL with two. -/
theorem exchangesWithRam : Obligations.ExchangesWithRam := by
  refine ⟨⟨coded_of_wf (i := .exam) rfl, fun x => coded_of_wf (i := .exa x) rfl,
    fun x => coded_of_wf (i := .exhl x) rfl⟩, fun s h => ?exam, fun s x h => ?exa, fun s x h => ?exhl⟩
  case exam => exact exchangeData_of_ram 1 h
  case exa => exact exchangeData_of_ram 2 h
  case exhl =>
    exact exists_next_of_store_pair
      (g := fun u => State.advance (State.flagsSet ((u.setLr (s.peek (s.eaDir (pairLow x)))).setHr
        (s.peek (s.eaDir (pairHigh x))))) 2)
      (eaDir_pairLow_ne_pairHigh s x) (exec_exhl_of_ram h) (fun _ _ => rfl) rfl

end Sys2Proof.Machine
end

section
/-! Branches: the targets as numbers, and the one next state that SBR, LBR and SLBR share (R200 to R202). -/

namespace Sys2Proof.Machine

/-! ### Targets as numbers -/

theorem append_eq_ofNat {m n : Nat} (x : BitVec m) (y : BitVec n) :
    x ++ y = BitVec.ofNat (m + n) (2 ^ n * x.toNat + y.toNat) := by
  rw [← toNat_append_eq, BitVec.ofNat_toNat, BitVec.setWidth_eq]

/-- The upper bits of an address before a new lower part: the same page of `2 ^ n` bytes, at offset `a`. -/
theorem page_append_eq_ofNat {m n : Nat} (next : BitVec (m + n)) (a : BitVec n) :
    next.extractLsb' n m ++ a = BitVec.ofNat (m + n) (2 ^ n * (next.toNat / 2 ^ n) + a.toNat) := by
  have hpage : next.toNat / 2 ^ n < 2 ^ m :=
    Nat.div_lt_of_lt_mul (by rw [← Nat.pow_add']; exact next.isLt)
  rw [append_eq_ofNat, BitVec.extractLsb'_toNat, Nat.shiftRight_eq_div_pow, Nat.mod_eq_of_lt hpage]

/-- SBR stays in the 64-byte page of `next` (R200). -/
theorem shortTarget_eq (s : State) (a : BitVec 6) :
    s.shortTarget a = BitVec.ofNat 13 (64 * ((s.nextPc 1).toNat / 64) + a.toNat) := by
  rw [State.shortTarget]
  exact page_append_eq_ofNat (m := 7) (n := 6) _ a

/-- LBR stays in the 4K half of `next` (R201, D11). -/
theorem longTarget_eq (s : State) (a : BitVec 12) :
    s.longTarget a = BitVec.ofNat 13 (4096 * ((s.nextPc 2).toNat / 4096) + a.toNat) := by
  rw [State.longTarget]
  exact page_append_eq_ofNat (m := 1) (n := 12) _ a

/-! ### The next state -/

/-- A branch writes SF and PC and nothing else. -/
theorem branchTo_eq (target : RomAddr) (len : Nat) (s : State) :
    branchTo target len s =
      .next { s with sf := true, pc := if s.sf then target else s.nextPc len } := rfl

/-- Settles O23. -/
theorem shortBranch : Obligations.ShortBranch := by
  refine fun s a => ⟨coded_of_wf (i := .sbr a) rfl, ?_⟩
  rw [exec, execSbr, branchTo_eq, shortTarget_eq]
  rfl

/-- Settles O24: the prefix of SLBR is bit 12 of its target, which LBR takes from `next`. -/
theorem longBranches : Obligations.LongBranches := by
  refine fun s a => ⟨⟨coded_of_wf (i := .lbr a) rfl, ?lbr⟩, ⟨coded_of_wf (i := .slbrHigh a) rfl, ?slbrHigh⟩,
    ⟨coded_of_wf (i := .slbrLow a) rfl, ?slbrLow⟩⟩
  case lbr =>
    rw [exec, execLbr, branchTo_eq, longTarget_eq]
    rfl
  case slbrHigh =>
    rw [exec, execSlbrHigh, branchTo_eq, append_eq_ofNat]
    rfl
  case slbrLow =>
    have htarget : 0#1 ++ a = BitVec.ofNat 13 a.toNat := by
      rw [append_eq_ofNat]
      simp
    rw [exec, execSlbrLow, branchTo_eq, htarget]
    rfl

end Sys2Proof.Machine
end

section
/-! Compares of a constant with Acc, HR or LR (R214 to R216). -/

namespace Sys2Proof.Machine

/-- Settles O5: the flags are those of `k` minus the register, and only CMPIA writes CF. -/
theorem compareImmediate : Obligations.CompareImmediate := by
  refine fun s k => ⟨⟨coded_of_wf (i := .cmpia k) rfl, ?cmpia⟩, ⟨coded_of_wf (i := .cmph k) rfl, ?cmph⟩,
    ⟨coded_of_wf (i := .cmpl k) rfl, ?cmpl⟩⟩
  case cmpia =>
    rw [exec, execCmpia, compareEq_eq]
    rfl
  case cmph =>
    rw [exec, execCmph, flagsSub_sub4]
    rfl
  case cmpl =>
    rw [exec, execCmpl, flagsSub_sub4]
    rfl

end Sys2Proof.Machine
end

section
/-! Moves of the flags SF and CF, and one bit of a nibble of the zero page set, cleared or tested (R225, R229 to R231,
R235, R271 to R273, R279). -/

namespace Sys2Proof.Machine

variable {s : State}

/-! ### SF and PC -/

/-- TZS and the bit tests write SF and PC and nothing else. -/
theorem setSf_advance (b : Bool) (len : Nat) (s : State) :
    (s.setSf b).advance len = { s with sf := b, pc := s.nextPc len } := rfl

/-- Settles O6: TFCFC and TTCFS give SF the old CF, as it is or inverted, before they write CF; NOP moves PC alone. -/
theorem flagMoves : Obligations.FlagMoves := by
  refine fun s b => ⟨⟨coded_of_wf (i := .tfcfc) rfl, ?tfcfc⟩, ⟨coded_of_wf (i := .ttcfs) rfl, ?ttcfs⟩,
    ⟨coded_of_wf (i := .tzs) rfl, ?tzs⟩, ⟨coded_of_wf (i := .tfa b) rfl, ?tfa⟩, ⟨coded_of_wf (i := .nop) rfl, ?nop⟩⟩
  case tfcfc => rfl
  case ttcfs => rfl
  case tzs =>
    rw [exec, execTzs, setSf_advance]
    rfl
  case tfa =>
    rw [exec, execTfa, setSf_advance]
    rfl
  case nop => rfl

/-! ### The zero page -/

/-- An access to the zero page reads the nibble that RAM shows there: no special area lies in it (R77). -/
theorem readData_eaZp_of_peek {y m : Nibble} (hm : s.peek (eaZp y) = m) : readData (eaZp y) s = .ok m := by
  rw [readData_of_ram s (eaZp_not_special y), hm]

/-- Settles O12: CLR and SET are read-modify-writes of the nibble with SF set, TF and TT read it and write SF
alone. -/
theorem zeroPageBits : Obligations.ZeroPageBits := by
  refine fun s y b m hm => ⟨⟨coded_of_wf (i := .clr y b) rfl, ?clr⟩, ⟨coded_of_wf (i := .set y b) rfl, ?set⟩,
    ⟨coded_of_wf (i := .tf y b) rfl, ?tf⟩, ⟨coded_of_wf (i := .tt y b) rfl, ?tt⟩⟩
  case clr => exact updateData_bit_of_peek 2 (eaZp_not_special y) hm fun _ hc => clearBit_getLsbD m b hc
  case set => exact updateData_bit_of_peek 2 (eaZp_not_special y) hm fun _ hc => setBit_getLsbD m b hc
  case tf =>
    rw [exec, execTf, readData_eaZp_of_peek hm, onOk_ok, setSf_advance]
    rfl
  case tt =>
    rw [exec, execTt, readData_eaZp_of_peek hm, onOk_ok, setSf_advance]
    rfl

end Sys2Proof.Machine
end

section
/-! Calls and interrupts: the next state of a call and of an acceptance, the source of the highest priority in the
terms of the source table, and the instructions that write IL, EI and MASK (R240, R241, R274 to R278, R320 to R333). -/

namespace Sys2Proof.Machine

variable {s : State}

/-! ### Calls -/

/-- A call writes its level, SP and PC, and uses up a free value for the flag part of the level (R41, D5). -/
theorem exists_next_of_callTo {target pc : RomAddr} {len : Nat} (h : s.sp.toNat < 13) (htarget : target = pc) :
    ∃ t e, callTo target len s = .next t ∧ e.pc = s.nextPc len ∧
      t = { s with
        stack := s.stack.set s.sp.toNat e h, sp := s.sp - 1#4, pc := pc, draws := t.draws } := by
  subst htarget
  exact ⟨_, _, callTo_of_lt target len h, rfl, rfl⟩

theorem callTarget_eq (a : BitVec 11) : callTarget a = BitVec.ofNat 13 a.toNat := by
  rw [callTarget, append_eq_ofNat]
  simp

theorem shortCallTarget_eq (n : Nibble) :
    shortCallTarget n = BitVec.ofNat 13 (if n.toNat = 0 then 0x86 else 8 * n.toNat + 6) := by
  revert n; decide

/-- Settles O25: LCALL and SCALL differ in their length and their target only. -/
theorem calls : Obligations.Calls :=
  ⟨⟨fun a => coded_of_wf (i := .lcall a) rfl, fun n => coded_of_wf (i := .scall n) rfl⟩, fun _ h =>
    ⟨fun a => exists_next_of_callTo h (callTarget_eq a), fun n => exists_next_of_callTo h (shortCallTarget_eq n)⟩⟩

/-! ### The source of the highest priority -/

/-- The sources in the order of their priority (R320). -/
def Source.byPriority : List Source := [.int0, .htci, .trga, .trgb, .tbi, .int1]

/-- The MASK bit that gates a source; INT0 has none (R321). -/
def Source.maskBit : Source → Option Nat
  | .int0 => none
  | .htci => some 3
  | .trga => some 2
  | .trgb => some 1
  | .tbi => some 0
  | .int1 => some 0

/-- The row of a source in the source table. -/
def Source.row (n : Source) : Nat × RomAddr × Option Nat := (n.latchBit, n.vector, n.maskBit)

theorem sourceTable_eq_map : sourceTable = Source.byPriority.map Source.row := rfl

theorem requested_row (s : State) (n : Source) : requested s n.row = s.acceptable n := by
  cases n <;> rfl

theorem find?_cons_eq_ite {α : Type} (p : α → Bool) (a : α) (l : List α) :
    (a :: l).find? p = if p a then some a else l.find? p := by
  cases h : p a <;> simp [h]

/-- The priority of the sources is a search in their order (R324). -/
theorem pendingSource_eq_find? (s : State) : s.pendingSource = Source.byPriority.find? s.acceptable := by
  simp only [State.pendingSource, Source.byPriority, find?_cons_eq_ite, List.find?_nil]

theorem pendingSource_eq_none_iff (s : State) :
    s.pendingSource = none ↔ ∀ r ∈ sourceTable, requested s r = false := by
  simp only [pendingSource_eq_find?, sourceTable_eq_map, List.find?_eq_none, List.forall_mem_map, requested_row,
    Bool.not_eq_true]

theorem pendingSource_isSome_iff (s : State) :
    s.pendingSource.isSome = true ↔ ∃ r ∈ sourceTable, requested s r = true := by
  simp only [pendingSource_eq_find?, sourceTable_eq_map, List.find?_isSome, List.mem_map, exists_exists_and_eq_and,
    requested_row]

/-- A requested row with nothing requested above it is that of the pending source. -/
theorem pendingSource_of_requested {higher lower : List (Nat × RomAddr × Option Nat)}
    {r : Nat × RomAddr × Option Nat} (htable : sourceTable = higher ++ r :: lower)
    (hhigher : ∀ q ∈ higher, requested s q = false) (hr : requested s r = true) :
    ∃ n, s.pendingSource = some n ∧ n.row = r := by
  rw [sourceTable_eq_map, List.map_eq_append_iff] at htable
  obtain ⟨above, rest, hsplit, rfl, hrest⟩ := htable
  obtain ⟨n, below, rfl, rfl, -⟩ := List.map_eq_cons_iff.1 hrest
  refine ⟨n, ?_, rfl⟩
  rw [pendingSource_eq_find?, List.find?_eq_some_iff_append]
  refine ⟨requested_row s n ▸ hr, above, below, hsplit, fun m hm => ?_⟩
  rw [← requested_row, hhigher _ (List.mem_map_of_mem hm)]
  rfl

/-- A row is requested with EI set, its latch set, and its MASK bit set where it has one (R321). -/
theorem requested_iff (s : State) (r : Nat × RomAddr × Option Nat) :
    requested s r = true ↔
      s.ei = true ∧ s.il.getLsbD r.1 = true ∧ ∀ m, r.2.2 = some m → s.mask.getLsbD m = true := by
  obtain ⟨latch, vector, _ | gate⟩ := r <;> simp [requested, and_assoc]

theorem pendingSource_of_ei_eq_false (h : s.ei = false) : s.pendingSource = none := by
  refine (pendingSource_eq_none_iff s).2 fun r _ => ?_
  rw [← Bool.not_eq_true, requested_iff, h]
  simp

/-! ### Acceptance and return -/

/-- An acceptance with a level left pushes PC and the flags and goes to the entry address (R330). -/
theorem takeInterrupt_of_lt (n : Source) (h : s.sp.toNat < 13) :
    takeInterrupt n s = .next { s with
      stack := s.stack.set s.sp.toNat { cf := s.cf, zf := s.zf, sf := s.sf, pc := s.pc } h,
      sp := s.sp - 1#4, pc := n.vector, sf := true, ei := false,
      il := s.il &&& ~~~(1#6 <<< n.latchBit) } := by
  rw [takeInterrupt, pushEntry_of_lt _ h, onOk_ok]
  rfl

/-- Settles O41: the step is the acceptance of the source whose row is the first requested one. -/
theorem interruptEntry : Obligations.InterruptEntry := by
  refine ⟨fun s higher lower r hsp htable hhigher hr hsched hmode => ?_, pendingSource_eq_none_iff⟩
  obtain ⟨n, hpending, rfl⟩ := pendingSource_of_requested htable hhigher hr
  rw [step_of_pending hsched ((Mode.running_iff _).2 hmode) hpending, takeInterrupt_of_lt n hsp]
  rfl

/-- Settles O42: the pop reads the level that the acceptance wrote, and undoes its change of SP. -/
theorem rtiAfterInterrupt : Obligations.RtiAfterInterrupt := by
  intro s t u hsched hmode hpending hstep hsp hstack
  obtain ⟨n, hn⟩ := Option.ne_none_iff_exists'.1 hpending
  rw [step_of_pending hsched ((Mode.running_iff _).2 hmode) hn] at hstep
  obtain ⟨hlt, rfl⟩ := takeInterrupt_eq_next hstep
  have hback : u.sp + 1#4 = s.sp := by simp [hsp]
  have hlevel : u.stack[(u.sp + 1#4).toNat]? = some ⟨s.cf, s.zf, s.sf, s.pc⟩ := by
    rw [hback, hstack]
    simp [hlt]
  rw [exec_rti_of_getElem? hlevel, hback]

/-! ### IL, EI and MASK -/

/-- Settles O8: nothing is pending without EI, and with EI what `requested_iff` says of the latches that are left. -/
theorem interruptControl : Obligations.InterruptControl := by
  refine fun s r => ⟨⟨coded_of_wf (i := .cil r) rfl, rfl⟩, ⟨coded_of_wf (i := .dicil r) rfl, ?dicil⟩,
    ⟨coded_of_wf (i := .eicil r) rfl, ?eicil⟩, ⟨coded_of_wf (i := .exae) rfl, rfl⟩⟩
  case dicil => exact ⟨_, rfl, pendingSource_of_ei_eq_false rfl, rfl⟩
  case eicil =>
    refine ⟨_, rfl, rfl, ?_⟩
    simp only [pendingSource_isSome_iff, requested_iff, State.advance, State.setPc, State.flagsSet, State.setSf,
      State.setIl, State.setEi, BitVec.getLsbD_and, true_and]

end Sys2Proof.Machine
end

section
/-! Group 14: the ten special registers in bank 0, and the nibbles of RAM behind them in bank 1 (R39, R281 to R306). -/

namespace Sys2Proof.Machine

variable {s : State} {i : Instr} {x : Byte}

theorem eaDir_of_bank {b : Bool} (h : s.latch.p9.getLsbD 3 = b) (x : Byte) : s.eaDir x = BitVec.ofBool b ++ x := by
  rw [State.eaDir, State.bank, h]

/-! ### Bank 0 -/

/-- The special registers lie where there is no RAM (R39, R74). -/
theorem isSpecialArea_of_specialAt {a : DataAddr} {r : Special} (h : specialAt a = some r) :
    isSpecialArea a = true := by
  have key : ∀ a : DataAddr, (specialAt a).isSome = true → isSpecialArea a = true := by decide
  exact key a (by rw [h]; rfl)

theorem loadDirect_of_special {r : Special} (hx : specialAt (s.eaDir x) = some r) :
    loadDirect x s = .next (((s.setAcc (s.getSpecial r)).flagsLoad (s.getSpecial r)).advance 2) := by
  rw [loadDirect, readDirect, if_pos (isSpecialArea_of_specialAt hx), hx, onOk_ok]

theorem storeDirect_of_special {r : Special} (hx : specialAt (s.eaDir x) = some r) :
    storeDirect x s = .next ((s.putSpecial r s.acc).flagsSet.advance 2) := by
  rw [storeDirect, writeDirect, if_pos (isSpecialArea_of_specialAt hx), hx, onOk_ok]

/-- A load of group 14 by the special register that its second byte names in bank 0. -/
theorem specialLoad_row (r : Special) (hw : i.wf = true := by rfl) (hencode : i.encode = [0x6A#8, x] := by rfl)
    (hcycles : i.cycles = 2 := by rfl) (hexec : ∀ s, exec i s = loadDirect x s := by exact fun _ => rfl)
    (hx : specialAt (0#1 ++ x) = some r := by rfl) :
    Coded [0x6A#8, x] 2 i ∧ ∀ s : State, s.latch.p9.getLsbD 3 = false →
      exec i s = .next { s with
        acc := s.getSpecial r, zf := s.getSpecial r == 0#4, sf := true, pc := s.pc + 2#13 } := by
  refine ⟨hencode ▸ hcycles ▸ coded_of_wf hw, fun s hbank => ?_⟩
  rw [hexec, loadDirect_of_special ((congrArg specialAt (eaDir_of_bank hbank x)).trans hx)]
  rfl

/-- A store of group 14 by the special register that its second byte names in bank 0. -/
theorem specialStore_row (r : Special) (hw : i.wf = true := by rfl) (hencode : i.encode = [0x69#8, x] := by rfl)
    (hcycles : i.cycles = 2 := by rfl) (hexec : ∀ s, exec i s = storeDirect x s := by exact fun _ => rfl)
    (hx : specialAt (0#1 ++ x) = some r := by rfl) :
    Coded [0x69#8, x] 2 i ∧ ∀ s : State, s.latch.p9.getLsbD 3 = false →
      exec i s = .next ((s.putSpecial r s.acc).flagsSet.advance 2) := by
  refine ⟨hencode ▸ hcycles ▸ coded_of_wf hw, fun s hbank => ?_⟩
  rw [hexec, storeDirect_of_special ((congrArg specialAt (eaDir_of_bank hbank x)).trans hx)]

/-- Settles O20: one special register per row. -/
theorem specialRegisterLoads : Obligations.SpecialRegisterLoads := by
  unfold Obligations.SpecialRegisterLoads
  simp only [List.forall_mem_cons, List.not_mem_nil, false_imp_iff, implies_true, and_true]
  exact ⟨specialLoad_row (.ta .low), specialLoad_row (.ta .middle), specialLoad_row (.ta .high),
    specialLoad_row (.tb .low), specialLoad_row (.tb .middle), specialLoad_row (.tb .high),
    specialLoad_row (.dp .low), specialLoad_row (.dp .middle), specialLoad_row (.dp .high),
    specialLoad_row .sp⟩

/-- Settles O21: one special register per row. -/
theorem specialRegisterStores : Obligations.SpecialRegisterStores := by
  unfold Obligations.SpecialRegisterStores
  simp only [List.forall_mem_cons, List.not_mem_nil, false_imp_iff, implies_true, and_true]
  exact ⟨specialStore_row (.ta .low), specialStore_row (.ta .middle), specialStore_row (.ta .high),
    specialStore_row (.tb .low), specialStore_row (.tb .middle), specialStore_row (.tb .high),
    specialStore_row (.dp .low), specialStore_row (.dp .middle), specialStore_row (.dp .high),
    specialStore_row .sp⟩

/-! ### Bank 1 -/

/-- All of bank 1 is RAM (R74). -/
theorem isRam_bankOne (x : Byte) : IsRam (1#1 ++ x) := by
  refine .inr ?_
  rw [toNat_append_eq]
  simp

/-- A load and a store of group 14 in bank 1 are those of LDA x and STA x (R281). -/
theorem direct_bankOne (hbank : s.latch.p9.getLsbD 3 = true) (x : Byte) :
    (∀ m, s.peek (1#1 ++ x) = m →
      loadDirect x s = .next { s with acc := m, zf := m == 0#4, sf := true, pc := s.pc + 2#13 }) ∧
    ∃ t, storeDirect x s = .next t ∧ StoredOnly (1#1 ++ x) s.acc s t ∧
      t = { s with ram := t.ram, stack := t.stack, sf := true, pc := s.pc + 2#13 } := by
  have haddr : s.eaDir x = 1#1 ++ x := eaDir_of_bank hbank x
  have hram : IsRam (s.eaDir x) := haddr ▸ isRam_bankOne x
  rw [← haddr]
  refine ⟨fun m hm => ?_, ?_⟩
  · rw [loadDirect, readDirect_of_ram hram, hm]
    rfl
  · exact exists_next_of_store (g := fun u => u.flagsSet.advance 2) (storeDirect_of_ram hram) (fun _ _ => rfl) rfl

/-- Settles O22: whatever its row, an instruction is the direct load or store of its second byte. -/
theorem specialRegistersInBankOne : Obligations.SpecialRegistersInBankOne := by
  unfold Obligations.SpecialRegistersInBankOne
  simp only [List.forall_mem_cons, List.not_mem_nil, false_imp_iff, implies_true, and_true]
  and_intros
  all_goals exact fun _ h => direct_bankOne h _

end Sys2Proof.Machine
end

section
/-! The agents beside the CPU as equations of the next state: timers and time base, the HTC, the wake-ups, the
watch-dog and the pins (R322, R351 to R367, R373 to R378). -/

namespace Sys2Proof.Machine

open Sys2Proof.Config

variable {s : State}

/-! ### The command fields as numbers -/

theorem timerMode_eq_event_iff (v : Nibble) : timerMode v = .event ↔ v.toNat / 4 = 1 := by
  revert v; decide

theorem countsPulse_iff (v : Nibble) (gate : Bool) :
    countsPulse (timerMode v) gate = true ↔ v.toNat / 4 = 2 ∨ v.toNat / 4 = 3 ∧ gate = true := by
  revert v gate; decide

theorem htcCounts_iff (v : Nibble) (gate : Bool) :
    htcCounts (htcMode v) gate = true ↔
      v.toNat / 4 = 1 ∨ v.toNat / 4 = 2 ∨ v.toNat / 4 = 3 ∧ gate = true := by
  revert v gate; decide

/-- P25 selects a rate by its codes 01xx and 11xx, less those that SLOW mode reserves (R61, R358). -/
theorem timeBaseSelected_iff (s : State) :
    timeBaseSelected s = true ↔ s.cmd.p25.toNat / 4 % 2 = 1 ∧
      ¬ (s.mode = .slow ∧ s.cmd.p25 ∈ [0x4#4, 0x5#4, 0x6#4, 0xC#4]) := by
  have key : ∀ (dbl slow : Bool) (v : Nibble),
      timeBaseRate dbl slow v ∉ [.disabled, .reserved] ↔
        v.toNat / 4 % 2 = 1 ∧ ¬ (slow = true ∧ v ∈ [0x4#4, 0x5#4, 0x6#4, 0xC#4]) := by decide
  rw [← beq_iff_eq (a := s.mode), ← key s.opts.freqDouble, timeBaseSelected]
  split
  · next hd => simp [hd]
  · next hr => simp [hr]
  · next hd hr => simpa using ⟨hd, hr⟩

theorem idleSignal_isSome_iff (dbl : Bool) (v : Nibble) : (idleSignal dbl v).isSome = true ↔ v.toNat % 4 ≠ 0 := by
  revert dbl v; decide

/-! ### Timers and time base -/

/-- Settles O44: the mode and the fields of P28, P29 and P25 let a count or a request through. -/
theorem timersAndTimeBase : Obligations.TimersAndTimeBase := by
  rintro s _ rest rfl
  refine ⟨fun hs => ?_, fun hs => ?_, fun hs => ?_⟩
  all_goals refine (step_of_event hs nofun).trans (congrArg Host.Outcome.next ?_)
  · refine if_congr ?_ rfl rfl
    rw [Bool.and_eq_true, Mode.running_iff, countsPulse_iff, gateA, beq_iff_eq]
    rfl
  · refine if_congr ?_ rfl rfl
    rw [Bool.and_eq_true, Mode.running_iff, countsPulse_iff, gateB, beq_iff_eq]
    rfl
  · refine if_congr ?_ rfl rfl
    rw [Bool.and_eq_true, Mode.running_iff, timeBaseSelected_iff]
    rfl

/-! ### High speed timer/counter -/

/-- A count of the HTC, with the count that does not overflow first. -/
theorem countHtc_eq (s : State) :
    countHtc s =
      if s.htc.count ≠ 0xFF#8 then { s with htc := { s.htc with count := s.htc.count + 1#8 } }
      else if s.cmd.p31.toNat / 4 = 2 then
        { s with htc := { s.htc with count := s.htc.preset, sound := !s.htc.sound } }
      else { s with htc := { s.htc with count := s.htc.preset }, il := s.il ||| 0b010000#6 } := by
  rw [ite_not, countHtc]
  exact if_congr Iff.rfl (if_congr (htcMode_eq_melody_iff _) rfl rfl) rfl

/-- Settles O45. -/
theorem highSpeedCounter : Obligations.HighSpeedCounter := by
  rintro s _ rest rfl hs
  refine (step_of_event hs nofun).trans (congrArg Host.Outcome.next (if_congr ?_ (countHtc_eq _) rfl))
  rw [Bool.and_eq_true, Mode.running_iff, htcCounts_iff, gateHtc, beq_iff_eq]
  rfl

/-! ### Wake-ups -/

theorem cpuTurn_of_stopped (h : s.mode.running = false) : cpuTurn s = .next s :=
  if_neg (by simp [h])

theorem releaseByPin_of_running (h : s.mode.running = true) : releaseByPin s = s := by
  unfold releaseByPin
  cases hm : s.mode
  case normal | slow => rfl
  case idle | stop => rw [hm] at h; cases h

theorem releaseByPin_of_stopped (h : s.mode ∈ [.idle, .stop]) :
    releaseByPin s = { s with mode := if s.mode = .idle then .slow else .normal } := by
  unfold releaseByPin
  cases hm : s.mode
  case idle | stop => rfl
  case normal | slow => simp [hm] at h

theorem releaseByTimer_eq (s : State) :
    releaseByTimer s =
      if s.mode = .idle ∧ s.cmd.p19.toNat % 4 ≠ 0 then { s with mode := .slow, wks := true } else s := by
  have hsignal := idleSignal_isSome_iff s.opts.freqDouble s.cmd.p19
  unfold releaseByTimer
  split
  · next hm hk => exact (if_pos ⟨hm, hsignal.1 (by rw [hk]; rfl)⟩).symm
  · next hno =>
    refine (if_neg fun ⟨hm, h19⟩ => ?_).symm
    obtain ⟨k, hk⟩ := Option.isSome_iff_exists.1 (hsignal.2 h19)
    exact hno k hm hk

theorem wakePin_of_enabled (h : wakeEnabled s.opts = true) : deviceAction .wakePin s = releaseByPin s :=
  if_pos h

theorem wakePin_of_disabled (h : wakeEnabled s.opts = false) : deviceAction .wakePin s = s :=
  if_neg (by simp [h])

theorem Mode.running_eq_false_iff (m : Mode) : m.running = false ↔ m ∈ [.idle, .stop] := by
  cases m <;> decide

/-- Settles O46. -/
theorem stopIdleAndWakeUp : Obligations.StopIdleAndWakeUp := by
  refine ⟨fun s hmode hs => ?_, ?_⟩
  · rw [step_of_unscheduled hs, cpuTurn_of_stopped ((Mode.running_eq_false_iff _).2 hmode)]
  rintro s _ rest rfl
  refine ⟨fun hs hwake => ?enabled, fun hs hwake => ?disabled, fun hs => ?timer⟩
  case enabled =>
    have hstep : step s = .next (releaseByPin (s.setSchedule rest)) :=
      (step_of_event hs nofun).trans (congrArg _ (wakePin_of_enabled hwake))
    refine ⟨fun hm => ?_, fun hm => ?_, fun hm => ?_⟩
    · rw [hstep, releaseByPin_of_stopped (by simp [hm]), State.setSchedule_mode, hm]
      rfl
    · rw [hstep, releaseByPin_of_stopped (by simp [hm]), State.setSchedule_mode, hm]
      rfl
    · rw [hstep, releaseByPin_of_running (s := s.setSchedule rest) ((Mode.running_iff _).2 hm)]
      rfl
  case disabled => exact (step_of_event hs nofun).trans (congrArg _ (wakePin_of_disabled hwake))
  case timer => exact (step_of_event hs nofun).trans (congrArg _ (releaseByTimer_eq _))

/-! ### Watch-dog timer -/

theorem wdtRuns_iff (s : State) : wdtRuns s = true ↔ s.opts.wdtEnable = true ∧ s.mode ≠ .stop := by
  rw [wdtRuns, Bool.and_eq_true, bne_iff_ne]

/-- Settles O47: the counter after the count is compared with the detect time. -/
theorem watchDog : Obligations.WatchDog := by
  rintro s _ rest rfl
  refine ⟨fun hs => ?_, fun hs => ?_⟩
  all_goals refine (step_of_event hs nofun).trans (congrArg Host.Outcome.next ?_)
  · refine if_congr (wdtRuns_iff _) (if_congr ?_ rfl rfl) rfl
    rw [BitVec.toNat_add]
    rfl
  · exact if_congr (wdtRuns_iff _) rfl rfl

/-! ### Requests by pins -/

theorem request_getLsbD (s : State) (n : Source) {b : Nat} (hb : b < 6) :
    (s.request n).il.getLsbD b = (s.il.getLsbD b || decide (b = n.latchBit)) := by
  have hbit : ∀ b < 6, (1#6 <<< n.latchBit).getLsbD b = decide (b = n.latchBit) := by cases n <;> decide
  rw [← hbit b hb, ← BitVec.getLsbD_or]
  rfl

/-- A request, or none, by a condition. -/
def State.requestIf (s : State) (n : Source) (c : Bool) : State := if c then s.request n else s

theorem requestIf_getLsbD (s : State) (n : Source) (c : Bool) {b : Nat} (hb : b < 6) :
    (s.requestIf n c).il.getLsbD b = (s.il.getLsbD b || decide (b = n.latchBit) && c) := by
  cases c
  · rw [Bool.and_false, Bool.or_false]
    rfl
  · rw [Bool.and_true, ← request_getLsbD s n hb]
    rfl

/-- Edges on P8 request INT0 and INT1 as `INT_EDGE` says (R322). -/
theorem externalRequest_p8 (old new : Nibble) (s : State) :
    externalRequest .p8 old new true s =
      (s.requestIf .int0 (transition s.opts.int0Edge old new 2)).requestIf .int1
        (transition s.opts.int1Edge old new 0) := by
  rw [← edgeOn_eq_transition _ _ _ _ (by decide), ← edgeOn_eq_transition _ _ _ _ (by decide)]
  rfl

/-- The latches after edges on P8: INT0 and INT1 by their transitions, the others as before. -/
theorem externalRequest_latches (old new : Nibble) (s : State) :
    (externalRequest .p8 old new true s).il.getLsbD 5 =
        (s.il.getLsbD 5 || transition s.opts.int0Edge old new 2) ∧
      (externalRequest .p8 old new true s).il.getLsbD 0 =
        (s.il.getLsbD 0 || transition s.opts.int1Edge old new 0) ∧
      ∀ b ∈ [1, 2, 3, 4], (externalRequest .p8 old new true s).il.getLsbD b = s.il.getLsbD b := by
  have hbits : ∀ b < 6, (externalRequest .p8 old new true s).il.getLsbD b =
      (s.il.getLsbD b || decide (b = 5) && transition s.opts.int0Edge old new 2 ||
        decide (b = 0) && transition s.opts.int1Edge old new 0) := fun b hb => by
    rw [externalRequest_p8, requestIf_getLsbD _ _ _ hb, requestIf_getLsbD _ _ _ hb]
    rfl
  refine ⟨by simpa using hbits 5, by simpa using hbits 0, fun b hb => ?_⟩
  have hother : b < 6 ∧ b ≠ 5 ∧ b ≠ 0 := by revert b; decide
  obtain ⟨h6, h5, h0⟩ := hother
  simpa [h5, h0] using hbits b h6

theorem externalRequest_of_not_allowed (p : PinPort) (old new : Nibble) (s : State) :
    externalRequest p old new false s = s := by
  cases p <;> rfl

theorem externalRequest_of_ne {p : PinPort} (hp : p ≠ .p8) (old new : Nibble) (allowed : Bool) (s : State) :
    externalRequest p old new allowed s = s := by
  cases p
  case p8 => exact absurd rfl hp
  all_goals rfl

/-! ### Event counters -/

theorem risen_getLsbD_iff (old new : Nibble) {b : Nat} (hb : b < 4) :
    (risen old new).getLsbD b = true ↔ old.getLsbD b = false ∧ new.getLsbD b = true := by
  simp [risen, hb]

theorem eventCount_p7 (hr : s.mode.running = true) (old new : Nibble) :
    eventCount .p7 old new s =
      if s.cmd.p28.toNat / 4 = 1 ∧ old.getLsbD 0 = false ∧ new.getLsbD 0 = true then countA s else s := by
  refine if_congr ?_ rfl rfl
  rw [hr, Bool.true_and, Bool.and_eq_true, beq_iff_eq, timerMode_eq_event_iff, risen_getLsbD_iff _ _ (by decide)]

theorem eventCount_p8 (hr : s.mode.running = true) (old new : Nibble) :
    eventCount .p8 old new s =
      if s.cmd.p29.toNat / 4 = 1 ∧ old.getLsbD 1 = false ∧ new.getLsbD 1 = true then countB s else s := by
  refine if_congr ?_ rfl rfl
  rw [hr, Bool.true_and, Bool.and_eq_true, beq_iff_eq, timerMode_eq_event_iff, risen_getLsbD_iff _ _ (by decide)]

theorem eventCount_of_not_mem {p : PinPort} (hp : p ∉ [.p7, .p8]) (old new : Nibble) (s : State) :
    eventCount p old new s = s := by
  cases p
  case p7 | p8 => simp at hp
  all_goals rfl

theorem eventCount_of_stopped (hr : s.mode.running = false) (p : PinPort) (old new : Nibble) :
    eventCount p old new s = s := by
  cases p
  case p7 | p8 => exact if_neg (by simp [hr])
  all_goals rfl

/-- A count of timer B, and its latch (R355). -/
theorem countB_tb_il (s : State) :
    if s.tb = 0xFFF#12 then (countB s).tb = s.opts.timerAfterOverflow ∧ (countB s).il.getLsbD 2 = true
    else (countB s).tb = s.tb + 1#12 ∧ (countB s).il.getLsbD 2 = s.il.getLsbD 2 := by
  unfold countB
  split
  · exact ⟨rfl, (request_getLsbD (s.setTb _) .trgb (by decide)).trans (Bool.or_true _)⟩
  · exact ⟨rfl, rfl⟩

/-- An event counter on P8 has no way to the latches beside that of TRGB. -/
theorem eventCount_p8_getLsbD (old new : Nibble) (s : State) {b : Nat} (hb : b < 6) (h2 : b ≠ 2) :
    (eventCount .p8 old new s).il.getLsbD b = s.il.getLsbD b := by
  unfold eventCount
  dsimp only
  split
  · obtain h | h := countB_il s
    · rw [h]
    · have hother : decide (b = Source.trgb.latchBit) = false := decide_eq_false h2
      rw [h, request_getLsbD _ _ hb, hother, Bool.or_false]
  · rfl

/-! ### New levels on pins -/

/-- While the CPU runs, the edges act and nothing is released. -/
theorem changePins_of_running (hr : s.mode.running = true) (p : PinPort) (v : Nibble) :
    changePins p v s = externalRequest p (pinsOf s.pins p) v true
      (eventCount p (pinsOf s.pins p) v (s.setPins (pinsPut s.pins p v))) := by
  unfold changePins
  dsimp only
  rw [hr, Bool.true_or]
  split
  · refine releaseByPin_of_running ?_
    rw [externalRequest_frame, eventCount_frame]
    exact hr
  · rfl

/-- In IDLE and STOP no counter counts, and requests come with a release only (R378). -/
theorem changePins_of_stopped (hr : s.mode.running = false) (p : PinPort) (v : Nibble) :
    changePins p v s =
      if wakes s.opts p (pinsOf s.pins p) v then
        releaseByPin (externalRequest p (pinsOf s.pins p) v true (s.setPins (pinsPut s.pins p v)))
      else s.setPins (pinsPut s.pins p v) := by
  unfold changePins
  dsimp only
  rw [hr, Bool.false_or, eventCount_of_stopped (s := s.setPins (pinsPut s.pins p v)) hr]
  cases wakes s.opts p (pinsOf s.pins p) v
  · exact externalRequest_of_not_allowed _ _ _ _
  · rfl

/-- In IDLE and STOP a release brings the requests of its edges along and leaves the mode (R375). -/
theorem changePins_of_release (hm : s.mode ∈ [.idle, .stop]) {p : PinPort} {v : Nibble} (hrel : Releases s p v) :
    changePins p v s =
      { externalRequest p (pinsOf s.pins p) v true (s.setPins (pinsPut s.pins p v)) with
        mode := if s.mode = .idle then .slow else .normal } := by
  have hmode : (externalRequest p (pinsOf s.pins p) v true (s.setPins (pinsPut s.pins p v))).mode = s.mode := by
    rw [externalRequest_frame]
    rfl
  rw [changePins_of_stopped ((Mode.running_eq_false_iff _).2 hm), if_pos ((wakes_iff_releases s p v).2 hrel),
    releaseByPin_of_stopped (hmode ▸ hm), hmode]

theorem changePins_of_not_releases (hm : s.mode ∈ [.idle, .stop]) {p : PinPort} {v : Nibble}
    (hrel : ¬ Releases s p v) : changePins p v s = s.setPins (pinsPut s.pins p v) := by
  rw [changePins_of_stopped ((Mode.running_eq_false_iff _).2 hm),
    if_neg fun h => hrel ((wakes_iff_releases s p v).1 h)]

/-! ### Edges on P8 while the CPU runs -/

/-- What edges on P8 do while the CPU runs: timer B may count, INT0 and INT1 may be requested. -/
def State.p8Edges (s : State) (old new : Nibble) : State :=
  externalRequest .p8 old new true (eventCount .p8 old new s)

theorem p8Edges_frame (s : State) (old new : Nibble) :
    s.p8Edges old new = { s with tb := (s.p8Edges old new).tb, il := (s.p8Edges old new).il } := by
  have hedge : EdgeEffect .p8 s (s.p8Edges old new) :=
    (eventCount_edge _ _ _ _).trans (externalRequest_edge _ _ _ _ _)
  conv_lhs => rw [hedge.frame, hedge.ta nofun]

/-- The counter reaches its own latch only, and the requests reach neither it nor that latch. -/
theorem p8Edges_latches (s : State) (old new : Nibble) :
    (s.p8Edges old new).il.getLsbD 5 = (s.il.getLsbD 5 || transition s.opts.int0Edge old new 2) ∧
      (s.p8Edges old new).il.getLsbD 0 = (s.il.getLsbD 0 || transition s.opts.int1Edge old new 0) ∧
      (∀ b ∈ [1, 3, 4], (s.p8Edges old new).il.getLsbD b = s.il.getLsbD b) ∧
      (s.p8Edges old new).il.getLsbD 2 = (eventCount .p8 old new s).il.getLsbD 2 := by
  obtain ⟨h5, h0, hothers⟩ := externalRequest_latches old new (eventCount .p8 old new s)
  have hopts : (eventCount .p8 old new s).opts = s.opts := by rw [eventCount_frame]
  have hkept (b : Nat) (hb : b < 6 ∧ b ≠ 2) : (eventCount .p8 old new s).il.getLsbD b = s.il.getLsbD b :=
    eventCount_p8_getLsbD _ _ _ hb.1 hb.2
  rw [hopts, hkept 5 (by decide)] at h5
  rw [hopts, hkept 0 (by decide)] at h0
  refine ⟨h5, h0, fun b hb => ?_, hothers 2 (by simp)⟩
  have hmem : b ∈ [1, 2, 3, 4] ∧ b < 6 ∧ b ≠ 2 := by revert b; decide
  exact (hothers b hmem.1).trans (hkept b hmem.2)

theorem p8Edges_counts (hr : s.mode.running = true) (old new : Nibble) :
    if s.cmd.p29.toNat / 4 = 1 ∧ old.getLsbD 1 = false ∧ new.getLsbD 1 = true then
      if s.tb = 0xFFF#12 then
        (s.p8Edges old new).tb = s.opts.timerAfterOverflow ∧ (s.p8Edges old new).il.getLsbD 2 = true
      else (s.p8Edges old new).tb = s.tb + 1#12 ∧ (s.p8Edges old new).il.getLsbD 2 = s.il.getLsbD 2
    else (s.p8Edges old new).tb = s.tb ∧ (s.p8Edges old new).il.getLsbD 2 = s.il.getLsbD 2 := by
  have htb : (s.p8Edges old new).tb = (eventCount .p8 old new s).tb := by
    rw [State.p8Edges, externalRequest_frame]
  obtain ⟨-, -, -, hlatch⟩ := p8Edges_latches s old new
  rw [htb, hlatch, eventCount_p8 hr]
  split
  · exact countB_tb_il s
  · exact ⟨rfl, rfl⟩

/-- Settles O43: P8, P7 and the other ports while the CPU runs, and all ports in IDLE and STOP. -/
theorem pinEdges : Obligations.PinEdges := by
  refine ⟨fun s v rest hm hs => ?p8, fun s u v rest hm hs hu => ?p7, fun s p v rest hm hp hs => ?other,
    fun s p v rest hm hs => ?stopped⟩
  case p8 =>
    have hr : s.mode.running = true := (Mode.running_iff _).2 hm
    have hedges : changePins .p8 v (s.setSchedule rest) = State.p8Edges _ s.pins.p8 v :=
      changePins_of_running (s := s.setSchedule rest) hr .p8 v
    obtain ⟨hint0, hint1, hothers, -⟩ :=
      p8Edges_latches ((s.setSchedule rest).setPins (pinsPut s.pins .p8 v)) s.pins.p8 v
    exact ⟨_, (step_of_event hs nofun).trans (congrArg _ hedges), p8Edges_frame _ _ _, hint0, hint1, hothers,
      p8Edges_counts (s := (s.setSchedule rest).setPins (pinsPut s.pins .p8 v)) hr _ _⟩
  case p7 =>
    subst hu
    have hr : s.mode.running = true := (Mode.running_iff _).2 hm
    have hedges : changePins .p7 v (s.setSchedule rest) = eventCount .p7 s.pins.p7 v _ :=
      changePins_of_running (s := s.setSchedule rest) hr .p7 v
    refine (step_of_event hs nofun).trans (congrArg Host.Outcome.next (hedges.trans ?_))
    exact eventCount_p7 (s := (s.setSchedule rest).setPins (pinsPut s.pins .p7 v)) hr _ _
  case other =>
    have hr : s.mode.running = true := (Mode.running_iff _).2 hm
    have hp8 : p ≠ .p8 := by intro h; simp [h] at hp
    refine ⟨_, step_of_event hs nofun, ?_⟩
    rw [deviceAction, changePins_of_running (s := s.setSchedule rest) hr, externalRequest_of_ne hp8,
      eventCount_of_not_mem hp]
    exact ⟨rfl, fun q => pinsOf_pinsPut _ _ _ _⟩
  case stopped =>
    refine ⟨_, step_of_event hs nofun, ?_⟩
    rw [deviceAction]
    by_cases hrel : Releases s p v
    · rw [changePins_of_release (s := s.setSchedule rest) hm hrel]
      refine ⟨?_, fun q => ?_, fun _ => rfl, absurd hrel, fun h => ?_, fun _ hp => ?_⟩
      · rw [externalRequest_frame]
        rfl
      · rw [externalRequest_frame]
        exact pinsOf_pinsPut _ _ _ _
      · rw [externalRequest_of_ne (h.resolve_left (not_not_intro hrel))]
        rfl
      · subst hp
        exact externalRequest_latches s.pins.p8 v ((s.setSchedule rest).setPins (pinsPut s.pins .p8 v))
    · rw [changePins_of_not_releases (s := s.setSchedule rest) hm hrel]
      exact ⟨rfl, fun q => pinsOf_pinsPut _ _ _ _, (absurd · hrel), fun _ => rfl, fun _ => rfl, (absurd · hrel)⟩

end Sys2Proof.Machine
end

section
/-! The operation modes over all steps, the reset event, and the runs that have ended (R371 to R383, R399). -/

namespace Sys2Proof.Machine

open Sys2Proof.Config

variable {s t : State}

/-! ### Mode moves -/

/-- The modes that a mode can be left for, short of a reset (R371 to R374). -/
def Mode.successors : Mode → List Mode
  | .normal => [.slow, .stop]
  | .slow => [.normal, .stop, .idle]
  | .idle => [.slow]
  | .stop => [.normal]

/-- The mode is kept or left for one of its successors. -/
def Mode.MovesTo (m n : Mode) : Prop := n = m ∨ n ∈ m.successors

theorem Mode.stop_mem_successors {m : Mode} (hr : m.running = true) : .stop ∈ m.successors := by
  cases m
  case normal | slow => simp [Mode.successors]
  case idle | stop => cases hr

/-- Of the ports only P16, P19 and P22 move the mode, and P16 where the CPU runs (R372 to R374). -/
theorem portOut_mode {p : BitVec 5} {v : Nibble} (hr : s.mode.running = true) (h : portOut p v s = .ok t) :
    s.mode.MovesTo t.mode := by
  unfold portOut at h
  split at h
  case h_14 =>
    obtain ⟨-, rfl⟩ | ⟨-, -, rfl⟩ := writeP16_eq_ok h
    · exact .inr (Mode.stop_mem_successors hr)
    · exact .inl rfl
  case h_15 =>
    obtain ⟨-, rfl⟩ | ⟨-, hm, rfl⟩ := writeP19_eq_ok h
    · exact .inl rfl
    · exact .inr (by simp [hm, Mode.successors])
  case h_16 =>
    obtain ⟨-, ht⟩ | ⟨-, rfl⟩ := writeP21_eq_ok h
    · exact .inl (by rw [ht])
    · exact .inl rfl
  case h_17 =>
    obtain ⟨-, hm, -, rfl⟩ | ⟨-, hm, rfl⟩ | rfl := writeP22_eq_ok h
    · exact .inr (by simp [hm, Mode.successors])
    · exact .inr (by simp [hm, Mode.successors])
    · exact .inl rfl
  case h_18 =>
    obtain ⟨-, rfl⟩ := writeP25_eq_ok h
    exact .inl rfl
  case h_19 =>
    obtain ⟨-, rfl⟩ | ⟨-, rfl⟩ := writeP27_eq_ok h
    all_goals exact .inl rfl
  case h_20 =>
    obtain ⟨-, rfl⟩ := writeP28_eq_ok h
    exact .inl rfl
  case h_22 =>
    obtain ⟨-, ht⟩ := writeP31_eq_ok h
    exact .inl (by rw [ht])
  case h_23 => cases h
  all_goals cases h; exact .inl rfl

theorem cpuTurn_mode (h : cpuTurn s = .next t) : s.mode.MovesTo t.mode := by
  by_cases hr : s.mode.running = true
  · obtain hkept | ⟨p, v, u, hu, hout⟩ := cpuTurn_periphery h
    · exact .inl (congrArg Periphery.mode hkept)
    · have hmode : t.mode = u.mode := congrArg Periphery.mode hout
      exact hmode ▸ portOut_mode hr hu
  · rw [cpuTurn_of_stopped (by simpa using hr)] at h
    exact .inl (congrArg State.mode (Host.Outcome.next.inj h).symm)

theorem releaseByPin_mode (s : State) : s.mode.MovesTo (releaseByPin s).mode := by
  obtain ⟨hm, h⟩ | ⟨hm, h⟩ | ⟨-, h⟩ := releaseByPin_cases s
  · exact .inr (by simp [h, hm, Mode.successors])
  · exact .inr (by simp [h, hm, Mode.successors])
  · exact .inl (by rw [h])

theorem releaseByTimer_mode (s : State) : s.mode.MovesTo (releaseByTimer s).mode := by
  obtain ⟨hm, h⟩ | h := releaseByTimer_cases s
  · exact .inr (by simp [h, hm, Mode.successors])
  · exact .inl (by rw [h])

/-- Edges leave the mode to the release. -/
theorem changePins_mode (p : PinPort) (v : Nibble) (s : State) : s.mode.MovesTo (changePins p v s).mode := by
  have edges (old new : Nibble) (allowed : Bool) (u : State) :
      (externalRequest p old new allowed (eventCount p old new u)).mode = u.mode := by
    rw [externalRequest_frame, eventCount_frame]
  unfold changePins
  dsimp only
  split
  · have hrel := releaseByPin_mode (externalRequest p (pinsOf s.pins p) v
      (s.mode.running || wakes s.opts p (pinsOf s.pins p) v)
      (eventCount p (pinsOf s.pins p) v (s.setPins (pinsPut s.pins p v))))
    rwa [edges] at hrel
  · exact .inl (edges _ _ _ _)

/-- Short of a reset, an agent beside the CPU moves the mode by a release only. -/
theorem deviceAction_mode {e : Event} (he : e ∉ [.resetPin, .wdtClock, .wdtTimeUp]) (s : State) :
    s.mode.MovesTo (deviceAction e s).mode := by
  cases e with
  | cpu | oscillator => exact .inl rfl
  | pins p v => exact changePins_mode p v s
  | int0 | int1 => rw [deviceAction]; split <;> exact .inl rfl
  | timerAPulse => rw [deviceAction, pulseA_frame]; exact .inl rfl
  | timerBPulse => rw [deviceAction, pulseB_frame]; exact .inl rfl
  | htcClock => rw [deviceAction, clockHtc_frame]; exact .inl rfl
  | timeBaseTick => rw [deviceAction, tickTimeBase_frame]; exact .inl rfl
  | wakePin =>
    rw [deviceAction]
    split
    · exact releaseByPin_mode s
    · exact .inl rfl
  | wakeTimer => exact releaseByTimer_mode s
  | wdtClock | wdtTimeUp | resetPin => simp at he

/-- An event that may reset the chip goes to NORMAL or keeps the mode (R380). -/
theorem deviceAction_mode_of_reset {e : Event} (he : e ∈ [.resetPin, .wdtClock, .wdtTimeUp]) (s : State) :
    (deviceAction e s).mode = .normal ∨ (deviceAction e s).mode = s.mode := by
  simp only [List.mem_cons, List.not_mem_nil, or_false] at he
  obtain rfl | rfl | rfl := he
  · exact .inl rfl
  · rw [deviceAction]
    obtain h | h | h := clockWdt_cases s
    · exact .inl (by rw [h]; rfl)
    · exact .inr (by rw [h]; rfl)
    · exact .inr (by rw [h])
  · rw [deviceAction]
    split
    · exact .inl rfl
    · exact .inr rfl

theorem step_mode (h : step s = .next t) :
    s.mode.MovesTo t.mode ∨
      (t.mode = .normal ∧ ∃ e rest, s.schedule = e :: rest ∧ e ∈ [.resetPin, .wdtClock, .wdtTimeUp]) := by
  obtain ⟨-, h⟩ | ⟨rest, -, h⟩ | ⟨e, rest, hs, -, rfl⟩ := step_eq_next h
  · exact .inl (cpuTurn_mode h)
  · exact .inl (cpuTurn_mode (s := s.setSchedule rest) h)
  · by_cases he : e ∈ [.resetPin, .wdtClock, .wdtTimeUp]
    · obtain hnormal | hkept := deviceAction_mode_of_reset he (s.setSchedule rest)
      · exact .inr ⟨hnormal, e, rest, hs, he⟩
      · exact .inl (.inl hkept)
    · exact .inl (deviceAction_mode he (s.setSchedule rest))

/-- Settles O55: a step that does not keep the mode goes to a successor, or resets the chip. -/
theorem modeTransitions : Obligations.ModeTransitions := by
  intro s t h hne
  obtain hmove | hreset := step_mode h
  · have hsucc := hmove.resolve_left hne
    cases hm : s.mode <;> rw [hm] at hsucc
    case normal => exact .inl ⟨rfl, hsucc⟩
    case slow => exact .inr (.inl ⟨rfl, hsucc⟩)
    case idle => exact .inr (.inr (.inl ⟨rfl, List.mem_singleton.1 hsucc⟩))
    case stop => exact .inr (.inr (.inr (.inl ⟨rfl, List.mem_singleton.1 hsucc⟩)))
  · exact .inr (.inr (.inr (.inr hreset)))

/-! ### The reset event -/

/-- The two bits of P1 that have a pin come up as the mask option says (R53). -/
theorem p1Initial_getLsbD (o : Options) {b : Nat} (hb : b < 2) : (p1Initial o).getLsbD b = o.p1InitialHigh := by
  have key : ∀ high : Bool, ∀ b < 2, (if high then 0xF#4 else 0xC#4).getLsbD b = high := by decide
  exact key o.p1InitialHigh b hb

theorem latchOf_resetChip (s : State) {p : Nat} (hp : p ∈ [3, 4, 5, 6, 7, 8]) : latchOf (resetChip s) p = 0xF#4 := by
  simp only [List.mem_cons, List.not_mem_nil, or_false] at hp
  obtain rfl | rfl | rfl | rfl | rfl | rfl := hp
  all_goals rfl

theorem resetChip_p9 {v : Nibble} (h : s.opts.p9Reset = some v) : (resetChip s).latch.p9 = v := by
  simp [resetChip, h]

/-- Settles O51: the step is `resetChip`, whose fields are the values of R381. -/
theorem resetEvent : Obligations.ResetEvent :=
  fun s rest hs =>
    ⟨resetChip (s.setSchedule rest), step_of_event hs nofun, rfl, rfl, rfl, rfl, rfl, rfl, rfl, rfl, rfl, rfl, rfl,
      rfl, rfl, rfl, rfl, rfl, fun _ => latchOf_resetChip _, fun _ => resetChip_p9 (s := s.setSchedule rest),
      fun _ => p1Initial_getLsbD s.opts⟩

/-! ### Ended runs -/

/-- A taken branch to where it stands changes nothing: SF is 1 before it and after it. -/
theorem branchTo_self {target : RomAddr} (len : Nat) (hsf : s.sf = true) (htarget : target = s.pc) :
    branchTo target len s = .next s := by
  rw [branchTo_eq, if_pos hsf, htarget, ← hsf]

theorem runInstruction_of_branchesToItself (h : s.branchesToItself = true) : runInstruction s = .next s := by
  obtain ⟨hsf, hself⟩ := Bool.and_eq_true_iff.1 h
  split at hself
  · next a hfetch => exact (runInstruction_of_fetch hfetch).trans (branchTo_self 1 hsf (beq_iff_eq.1 hself))
  · next a hfetch => exact (runInstruction_of_fetch hfetch).trans (branchTo_self 2 hsf (beq_iff_eq.1 hself))
  · next a hfetch => exact (runInstruction_of_fetch hfetch).trans (branchTo_self 3 hsf (beq_iff_eq.1 hself))
  · next a hfetch => exact (runInstruction_of_fetch hfetch).trans (branchTo_self 3 hsf (beq_iff_eq.1 hself))
  · cases hself

/-- Settles O57: with EI = 0 nothing interrupts the branch to itself, and in STOP the CPU takes no step. -/
theorem endedRunsStay : Obligations.EndedRunsStay := by
  intro s hended hs
  rw [step_of_unscheduled hs]
  simp only [State.runEnded, Bool.or_eq_true, Bool.and_eq_true, Bool.not_eq_true', beq_iff_eq] at hended
  obtain ⟨⟨hr, hei⟩, hself⟩ | ⟨hm, -⟩ := hended
  · rw [cpuTurn_of_ready hr (pendingSource_of_ei_eq_false hei), runInstruction_of_branchesToItself hself]
  · exact cpuTurn_of_stopped (by rw [hm]; rfl)

end Sys2Proof.Machine
end
